-- ==== Sys2Proof/Word.lean ====
section
/-! DEFINITION. The word types of the block: bytes, the delay word, node addresses. Times (R11) and construction
indexes (R33) are plain naturals. -/
namespace Sys2Proof

/-- The unit of input and of vector access: 8 bits, unsigned (R14, R90). -/
abbrev Byte := BitVec 8

/-- The lazy-host delay: 16 bits (R12, R40). -/
abbrev DelayWord := BitVec 16

/-- A logical node address 0..127 (R70). -/
abbrev Addr := Fin 128

/-- A subtype's private state, which the core passes on and never inspects (R9, R42; log 6). -/
abbrev SubState := List Byte

end Sys2Proof
end

