-- ==== Sys2Proof/Config.lean ====
section
/-! DEFINITION. What an instance of the block fixes, and the values the spec leaves open. -/
namespace Sys2Proof

/-- The init-set decoding routine named `other name` by a descriptor (R9, D16, U10): an arbitrary function of the
private state, the set index and the set byte. No body: nothing can be proved of its values (log 7). -/
opaque Config.initSet (name : Nat) (sub : SubState) (idx : Nat) (b : Byte) : SubState

/-- The `n`-th step report drawn outside DoReceive (R197, D13, U8): either Boolean. No body (log 8). -/
opaque Config.stepReport (n : Nat) : Bool

/-- What an index that a vector does not list reads as: 0x00 (R200, R202; log 15). -/
abbrev Config.unlisted : Byte := 0x00#8

end Sys2Proof
end

