-- ==== Sys2Proof/Syntax.lean ====
section
/-! DEFINITION. The inputs of the block and its instructions: one constructor per row of the opcode table. -/
namespace Sys2Proof

/-- The framing state of the decoder (R31). It selects the row a byte is read by (R104). -/
inductive DecState where
  | waitSync1 | waitSync2 | waitStx | waitAddr | waitType | waitData | waitRawData
deriving DecidableEq, Repr

/-- The name of a subtype's init-set decoding routine (R9, D16; log 7). -/
inductive Routine where
  /-- Appends the set byte to the private state: the routine of the spec's configuration CFG-A. -/
  | append
  /-- The routine `Config.initSet name`, left open. -/
  | other (name : Nat)
deriving DecidableEq, Repr

/-- A node descriptor (R9). -/
structure NodeDesc where
  addr    : Nat
  typeId  : Byte
  inBits  : Nat
  outBits : Nat
  routine : Routine
  subInit : SubState
  inInit  : List Byte
  outInit : List Byte
deriving DecidableEq, Repr

/-- A call of an operation of the opcode table by its operands (R105, R238; log 5). -/
inductive Call where
  | consume (b : Byte) (now : Nat)
  | init
  | poll
  | transmit
  | feed (b : Byte)
  | endOfFrame (now : Nat)
  | step (k : Nat) (now : Nat)
  | inRead (k : Nat) (i : Nat)
  | inWrite (k : Nat) (i : Nat) (v : Byte)
  | outRead (k : Nat) (i : Nat)
  | outWrite (k : Nat) (i : Nat) (v : Byte)
  | appWriteIn (k : Nat) (i : Nat) (v : Byte)
  | appReadOut (k : Nat) (i : Nat)
  | construct (d : NodeDesc)
  | register (k : Nat)
  | lookup (a : Addr)
deriving DecidableEq, Repr

/-- What the environment hands the block (R21, R238). -/
inductive Input where
  /-- A wire byte and the time of its `consume`; it is read in the decoder's state (R104, R120). -/
  | byte (b : Byte) (now : Nat)
  /-- A call of an operation. -/
  | call (c : Call)
  /-- A call that the error handler or the host channel makes inside a transaction: refused (R229, D26; log 16). -/
  | reenter (c : Call)
  /-- A second Frame Decoder over the same nodes: refused (R8, R84, D22; log 16). -/
  | attachDecoder
deriving DecidableEq, Repr

/-- Why the decoder refuses an input. -/
inductive Reject where
  /-- Raised by `decode` for a re-entrant call (R229, U14). Safe: the spec says refuse. -/
  | reentrantCall
  /-- Raised by `decode` for a second Frame Decoder (R8, U13). Safe: the spec says refuse. -/
  | secondDecoder
  /-- Raised by `decode` and CONSTRUCT for a descriptor address outside 0..127 (R215, U12). Safe: the spec says refuse. -/
  | addressOutOfRange (a : Nat)
  /-- Raised by `decode` and CONSTRUCT for initial vectors of the wrong length (R9; log 18). Safe: no configuration. -/
  | initLengthMismatch
deriving DecidableEq, Repr

/-- The instructions: the rows of `opcode_table.json` in its order. A decoder row carries the byte where its class has
more than one, and the time of the `consume` it is an arm of. -/
inductive Instr where
  | sync1 (now : Nat)
  | sync1Err (b : Byte) (now : Nat)
  | sync2 (now : Nat)
  | sync2Err (b : Byte) (now : Nat)
  | stx (now : Nat)
  | stxErr (b : Byte) (now : Nat)
  | addr (a : Addr) (now : Nat)
  | addrErr (b : Byte) (now : Nat)
  | typeInit (now : Nat)
  | typePoll (now : Nat)
  | typeTransmit (now : Nat)
  | typeErr (b : Byte) (now : Nat)
  | dataEsc (now : Nat)
  | dataEtx (now : Nat)
  | dataCtrlErr (b : Byte) (now : Nat)
  | dataByte (b : Byte) (now : Nat)
  | rawCtrl (b : Byte) (now : Nat)
  | rawErr (b : Byte) (now : Nat)
  | consume (b : Byte) (now : Nat)
  | init
  | poll
  | transmit
  | feed (b : Byte)
  | endOfFrame (now : Nat)
  | step (k : Nat) (now : Nat)
  | inRead (k : Nat) (i : Nat)
  | inWrite (k : Nat) (i : Nat) (v : Byte)
  | outRead (k : Nat) (i : Nat)
  | outWrite (k : Nat) (i : Nat) (v : Byte)
  | appWriteIn (k : Nat) (i : Nat) (v : Byte)
  | appReadOut (k : Nat) (i : Nat)
  | construct (d : NodeDesc)
  | register (k : Nat)
  | lookup (a : Addr)
deriving DecidableEq, Repr

end Sys2Proof
end

