-- ==== Sys2Proof/Machine/Fields.lean ====
section
/-! DEFINITION. The fields of the wire encoding: byte classes, the address byte, byte stuffing, frames, and the checks a
node descriptor must pass. -/
namespace Sys2Proof

/-- Sync byte (R92). -/
abbrev SYN : Byte := 0xFF#8
/-- Start of text (R92). -/
abbrev STX : Byte := 0x02#8
/-- End of text (R92). -/
abbrev ETX : Byte := 0x03#8
/-- Escape byte (R92). -/
abbrev ESC : Byte := 0x10#8
/-- Type byte 'I' (R92). -/
abbrev TYPE_I : Byte := 0x49#8
/-- Type byte 'P' (R92, G2; log 20). -/
abbrev TYPE_P : Byte := 0x50#8
/-- Type byte 'T' (R92, G2; log 20). -/
abbrev TYPE_T : Byte := 0x54#8

/-- The control set CTRL (R92). -/
def isCtrl (b : Byte) : Bool := b = ESC || b = ETX || b = SYN || b = STX

/-- An address byte: 0x41..0xC0, unsigned (R94, D1). -/
def isAddrByte (b : Byte) : Bool := 0x41 ≤ b.toNat && b.toNat ≤ 0xC0

/-- A type byte that selects a control call (R95); every other byte, 'R' among them, selects none (R101). -/
def isTypeByte (b : Byte) : Bool := b = TYPE_I || b = TYPE_P || b = TYPE_T

/-- The logical address of an address byte, `b - 65` (R94). -/
def addrOfByte (b : Byte) : Addr := Fin.ofNat 128 (b.toNat - 65)

/-- The address byte of a logical address, `a + 65` (R94). -/
def byteOfAddr (a : Addr) : Byte := BitVec.ofNat 8 (a.val + 65)

/-- Stuffing of one payload byte (R99). -/
def stuff (p : Byte) : List Byte := if isCtrl p then [ESC, p] else [p]

/-- Stuffing of a payload: byte by byte, concatenated (R99). -/
def stuffAll : List Byte → List Byte
  | [] => []
  | p :: ps => stuff p ++ stuffAll ps

/-- The pseudo-frame `FRAME(a, t, p)` (R91, R107). -/
def frame (a : Addr) (t : Byte) (p : List Byte) : List Byte :=
  [SYN, SYN, STX, byteOfAddr a, t] ++ stuffAll p ++ [ETX]

/-- Bytes of a vector of `bits` bits (R10, D11). -/
def byteCount (bits : Nat) : Nat := (bits + 7) / 8

/-- What is wrong with a descriptor: its address (R215), or the length of an initial vector (R9; log 18). -/
def NodeDesc.problem (d : NodeDesc) : Option Reject :=
  if 128 ≤ d.addr then some (.addressOutOfRange d.addr)
  else if d.inInit.length = byteCount d.inBits && d.outInit.length = byteCount d.outBits then none
  else some .initLengthMismatch

end Sys2Proof
end

