-- ==== Sys2Proof/WellFormed.lean ====
section
/-! DEFINITION. Which instructions the encoding has: the operand of a decoder row lies in the row's byte class (R104), and
a descriptor is a configuration (R9, R215). -/
namespace Sys2Proof

def Instr.wellFormed : Instr → Bool
  | .sync1 _ => true
  | .sync1Err b _ => b ≠ SYN
  | .sync2 _ => true
  | .sync2Err b _ => b ≠ SYN
  | .stx _ => true
  | .stxErr b _ => b ≠ STX
  | .addr _ _ => true
  | .addrErr b _ => !isAddrByte b
  | .typeInit _ => true
  | .typePoll _ => true
  | .typeTransmit _ => true
  | .typeErr b _ => !isTypeByte b
  | .dataEsc _ => true
  | .dataEtx _ => true
  | .dataCtrlErr b _ => b = SYN || b = STX
  | .dataByte b _ => !isCtrl b
  | .rawCtrl b _ => isCtrl b
  | .rawErr b _ => !isCtrl b
  | .consume _ _ => true
  | .init => true
  | .poll => true
  | .transmit => true
  | .feed _ => true
  | .endOfFrame _ => true
  | .step _ _ => true
  | .inRead _ _ => true
  | .inWrite _ _ _ => true
  | .outRead _ _ => true
  | .outWrite _ _ _ => true
  | .appWriteIn _ _ _ => true
  | .appReadOut _ _ => true
  | .construct d => d.problem = none
  | .register _ => true
  | .lookup _ => true

/-- The instruction is one the encoding has. -/
abbrev WellFormed (i : Instr) : Prop := i.wellFormed = true

end Sys2Proof
end

