-- ==== Sys2Proof/Decode.lean ====
section
/-! DEFINITION. From an input and the decoder's state to an instruction, total, rejecting by name; and the encoder. -/
namespace Sys2Proof

/-- The opcode map (R104): the row that the decoder state and a byte select. Every byte selects one row in each state. -/
def decodeByte (q : DecState) (b : Byte) (now : Nat) : Instr :=
  match q with
  | .waitSync1 => if b = SYN then .sync1 now else .sync1Err b now
  | .waitSync2 => if b = SYN then .sync2 now else .sync2Err b now
  | .waitStx => if b = STX then .stx now else .stxErr b now
  | .waitAddr => if isAddrByte b then .addr (addrOfByte b) now else .addrErr b now
  | .waitType =>
    if b = TYPE_I then .typeInit now
    else if b = TYPE_P then .typePoll now
    else if b = TYPE_T then .typeTransmit now
    else .typeErr b now
  | .waitData =>
    if b = ESC then .dataEsc now
    else if b = ETX then .dataEtx now
    else if b = SYN || b = STX then .dataCtrlErr b now
    else .dataByte b now
  | .waitRawData => if isCtrl b then .rawCtrl b now else .rawErr b now

/-- The second level of the opcode map (R105): a call is the operation it names; a descriptor that is no configuration
is rejected (R215). -/
def decodeCall : Call → Except Reject Instr
  | .consume b now => .ok (.consume b now)
  | .init => .ok .init
  | .poll => .ok .poll
  | .transmit => .ok .transmit
  | .feed b => .ok (.feed b)
  | .endOfFrame now => .ok (.endOfFrame now)
  | .step k now => .ok (.step k now)
  | .inRead k i => .ok (.inRead k i)
  | .inWrite k i v => .ok (.inWrite k i v)
  | .outRead k i => .ok (.outRead k i)
  | .outWrite k i v => .ok (.outWrite k i v)
  | .appWriteIn k i v => .ok (.appWriteIn k i v)
  | .appReadOut k i => .ok (.appReadOut k i)
  | .construct d =>
    match d.problem with
    | none => .ok (.construct d)
    | some r => .error r
  | .register k => .ok (.register k)
  | .lookup a => .ok (.lookup a)

/-- Decoding of any input in a decoder state: a wire byte by R104, a call by R105; a re-entrant call and a second decoder
are rejected (R229, R8). -/
def decode (q : DecState) : Input → Except Reject Instr
  | .byte b now => .ok (decodeByte q b now)
  | .call c => decodeCall c
  | .reenter _ => .error .reentrantCall
  | .attachDecoder => .error .secondDecoder

/-- The decoder state of an instruction's row (R104); the rows that are calls have none (R105). -/
def rowState : Instr → Option DecState
  | .sync1 _ => some .waitSync1
  | .sync1Err _ _ => some .waitSync1
  | .sync2 _ => some .waitSync2
  | .sync2Err _ _ => some .waitSync2
  | .stx _ => some .waitStx
  | .stxErr _ _ => some .waitStx
  | .addr _ _ => some .waitAddr
  | .addrErr _ _ => some .waitAddr
  | .typeInit _ => some .waitType
  | .typePoll _ => some .waitType
  | .typeTransmit _ => some .waitType
  | .typeErr _ _ => some .waitType
  | .dataEsc _ => some .waitData
  | .dataEtx _ => some .waitData
  | .dataCtrlErr _ _ => some .waitData
  | .dataByte _ _ => some .waitData
  | .rawCtrl _ _ => some .waitRawData
  | .rawErr _ _ => some .waitRawData
  | .consume _ _ => none
  | .init => none
  | .poll => none
  | .transmit => none
  | .feed _ => none
  | .endOfFrame _ => none
  | .step _ _ => none
  | .inRead _ _ => none
  | .inWrite _ _ _ => none
  | .outRead _ _ => none
  | .outWrite _ _ _ => none
  | .appWriteIn _ _ _ => none
  | .appReadOut _ _ => none
  | .construct _ => none
  | .register _ => none
  | .lookup _ => none

/-- The input that stands for an instruction: for a decoder row its wire byte (R92, R94, R95), read in `rowState`; for the
other rows the call. -/
def encode : Instr → Input
  | .sync1 now => .byte 0xFF#8 now
  | .sync1Err b now => .byte b now
  | .sync2 now => .byte 0xFF#8 now
  | .sync2Err b now => .byte b now
  | .stx now => .byte 0x02#8 now
  | .stxErr b now => .byte b now
  | .addr a now => .byte (byteOfAddr a) now
  | .addrErr b now => .byte b now
  | .typeInit now => .byte 0x49#8 now
  | .typePoll now => .byte 0x50#8 now
  | .typeTransmit now => .byte 0x54#8 now
  | .typeErr b now => .byte b now
  | .dataEsc now => .byte 0x10#8 now
  | .dataEtx now => .byte 0x03#8 now
  | .dataCtrlErr b now => .byte b now
  | .dataByte b now => .byte b now
  | .rawCtrl b now => .byte b now
  | .rawErr b now => .byte b now
  | .consume b now => .call (.consume b now)
  | .init => .call .init
  | .poll => .call .poll
  | .transmit => .call .transmit
  | .feed b => .call (.feed b)
  | .endOfFrame now => .call (.endOfFrame now)
  | .step k now => .call (.step k now)
  | .inRead k i => .call (.inRead k i)
  | .inWrite k i v => .call (.inWrite k i v)
  | .outRead k i => .call (.outRead k i)
  | .outWrite k i v => .call (.outWrite k i v)
  | .appWriteIn k i v => .call (.appWriteIn k i v)
  | .appReadOut k i => .call (.appReadOut k i)
  | .construct d => .call (.construct d)
  | .register k => .call (.register k)
  | .lookup a => .call (.lookup a)

/-- The time an instruction carries: `consume`, its arms, `endOfFrame` and `step` take `now` (R11, R120, R174, R190). -/
def timeOf : Instr → Option Nat
  | .sync1 now => some now
  | .sync1Err _ now => some now
  | .sync2 now => some now
  | .sync2Err _ now => some now
  | .stx now => some now
  | .stxErr _ now => some now
  | .addr _ now => some now
  | .addrErr _ now => some now
  | .typeInit now => some now
  | .typePoll now => some now
  | .typeTransmit now => some now
  | .typeErr _ now => some now
  | .dataEsc now => some now
  | .dataEtx now => some now
  | .dataCtrlErr _ now => some now
  | .dataByte _ now => some now
  | .rawCtrl _ now => some now
  | .rawErr _ now => some now
  | .consume _ now => some now
  | .init => none
  | .poll => none
  | .transmit => none
  | .feed _ => none
  | .endOfFrame now => some now
  | .step _ now => some now
  | .inRead _ _ => none
  | .inWrite _ _ _ => none
  | .outRead _ _ => none
  | .outWrite _ _ _ => none
  | .appWriteIn _ _ _ => none
  | .appReadOut _ _ => none
  | .construct _ => none
  | .register _ => none
  | .lookup _ => none

/-- The decoder state a lone table byte is read in (log 4): the opcode table gives a decoder row its byte only. -/
def tableState (b : Byte) : DecState :=
  if b = SYN then .waitSync1
  else if b = STX then .waitStx
  else if isTypeByte b then .waitType
  else if b = ESC || b = ETX then .waitData
  else if isAddrByte b then .waitAddr
  else .waitSync1

/-- The instruction of a word of the opcode table: one byte, read in `tableState` (log 4); the time of the `consume` has no
bits in the table and is 0. -/
def decodeTableWord (nbits w : Nat) : Option Instr :=
  if nbits = 8 && w < 256 then
    (decode (tableState (BitVec.ofNat 8 w)) (.byte (BitVec.ofNat 8 w) 0)).toOption
  else none

end Sys2Proof
end

