-- ==== Sys2Proof/Machine/State.lean ====
section
/-! DEFINITION. The state of the block (R30 to R47), its events, and the reasons a step can stop. -/
namespace Sys2Proof.Machine

/-- The protocol state of a node (R37). -/
inductive NodeState where
  | waitInit | waitNodeDefParam | waitDelayHigh | waitDelayLow | waitNumSets | doInit
  | waitPoll | waitEndPoll | waitDelay | doReceive | waitTransmit | doTransmit
deriving DecidableEq, Repr

/-- The error kinds of the decoder and of the nodes; WrongType belongs to both (R221, R223). -/
inductive ErrorKind where
  | wrongChar | wrongAddress | wrongType
  /-- Listed by the spec and raised by no rule (R222). -/
  | internalError
  | protocolError | initError
deriving DecidableEq, Repr

/-- The events of the output trace (R45). -/
inductive Event where
  /-- Decoder error report with the byte-location counter (R224). -/
  | decErr (kind : ErrorKind) (loc : Nat)
  /-- Node error report with the offending node (R225). -/
  | nodeErr (kind : ErrorKind) (k : Nat) (addr : Addr)
  /-- Begin-receive-frame to the host channel (R191). -/
  | txBegin (k : Nat) (addr : Addr)
  /-- One input byte to the host channel (R193). -/
  | txByte (k : Nat) (b : Byte)
deriving DecidableEq, Repr

/-- The values returned to callers (R22; log 9). -/
inductive Return where
  /-- The report of a `step` of node `k` (R190). -/
  | finished (k : Nat) (done : Bool)
  /-- The result of registering node `k` (R211). -/
  | accepted (k : Nat) (ok : Bool)
  /-- The result of a vector read (R200, R202, R205). -/
  | value (b : Byte)
  /-- The result of a registry lookup (R214). -/
  | found (r : Option Nat)
deriving DecidableEq, Repr

/-- The bytes of one vector: (index, byte) pairs. An unlisted index reads `Config.unlisted` (log 15). -/
abbrev Memory := List Host.Cell

/-- The canonical form: indexes strictly rising, no byte equal to what an unlisted index reads as. -/
abbrev Memory.wf (m : Memory) : Prop :=
  m.Pairwise (fun c d => c.1 < d.1) ∧ ∀ c ∈ m, c.2 ≠ Config.unlisted

/-- The Frame Decoder (R31 to R33). -/
structure Dec where
  state : DecState
  loc   : Nat
  cur   : Option Nat
deriving DecidableEq, Repr

/-- A node: its read-only configuration (R36), its registers (R37 to R42) and its vectors (R44). -/
structure Node where
  addr       : Addr
  typeId     : Byte
  inBytes    : Nat
  outBytes   : Nat
  routine    : Routine
  state      : NodeState
  index      : Nat
  numSets    : Byte
  delay      : DelayWord
  delayStart : Nat
  sub        : SubState
  inVec      : Memory
  outVec     : Memory
deriving DecidableEq, Repr

/-- The state of the block. `returns`, `draws`, `clock`, `started` and `inbox` are the model's own (INVENTORY.md). -/
structure State where
  /-- The Frame Decoder `D` (R31 to R33). -/
  dec     : Dec
  /-- The nodes `N[k]` in construction order (R9, R210). -/
  nodes   : List Node
  /-- The Registry (R46). -/
  reg     : Vector (Option Nat) 128
  /-- The output trace `T`, oldest event first (R45). -/
  trace   : List Event
  /-- The values returned to callers, oldest first (R22; log 9). -/
  returns : List Return
  /-- How many step reports have been drawn (R197; log 8). -/
  draws   : Nat
  /-- The latest admitted time (R256; log 10). -/
  clock   : Nat
  /-- Whether a timed transaction has run (D19; log 11). -/
  started : Bool
  /-- The inputs not yet taken, oldest first (R80; log 1). -/
  inbox   : List Input
deriving DecidableEq, Repr

/-- Why a step stops the machine. -/
inductive Fault where
  /-- Raised by STEP, the vector accessors, the application accesses and REGISTER for a node index that no constructed
  node has (R33; log 12). Safe: the spec gives such a call no effect. -/
  | noSuchNode (k : Nat)
deriving DecidableEq, Repr

/-- Why a step has no meaning. -/
inductive Refusal where
  /-- Raised by an arm of `exec` whose instruction has no meaning yet. Safe. -/
  | notModelled (mnemonic : String)
  /-- Raised by `step` for an input the decoder rejects, and by CONSTRUCT for a bad descriptor (R8, R215, R229). Safe: the
  spec says refuse. -/
  | input (r : Reject)
  /-- Raised by CONSTRUCT after the first timed transaction (R210, D19; log 11). Safe: outside the spec. -/
  | lateConstruction
  /-- Raised by `step` for a timed input earlier than the clock (R256, U16; log 10). Safe: outside the spec. -/
  | clockWentBack (now : Nat) (clock : Nat)
deriving DecidableEq, Repr

/-- The three outcomes of a meaning. -/
abbrev Result := Host.Outcome State Fault Refusal

/-- The block before its startup code constructs the first node (R46, R47, R250; log 3). -/
def State.reset : State where
  dec     := { state := .waitSync1, loc := 0, cur := none }
  nodes   := []
  reg     := Vector.replicate 128 none
  trace   := []
  returns := []
  draws   := 0
  clock   := 0
  started := false
  inbox   := []

end Sys2Proof.Machine
end

