-- ==== Sys2Proof/Machine/Flags.lean ====
section
/-! DEFINITION. The conditions the node rules branch on. The block has no condition-code flags (R30) and no arithmetic
flag (R183); these are computed where a rule tests them and stored nowhere. -/
namespace Sys2Proof.Machine

/-- DoInit: more set bytes are expected (R165). -/
def Node.setsPending (n : Node) : Bool := n.index < n.numSets.toNat

/-- DoInit: as many set bytes as announced have arrived (R175). -/
def Node.setsComplete (n : Node) : Bool := n.index = n.numSets.toNat

/-- WaitDelay: the lazy-host delay has elapsed, `now - delayStart >= delay` on exact integers (R190; log 19). -/
def Node.delayElapsed (n : Node) (now : Nat) : Bool := n.delayStart + n.delay.toNat ≤ now

/-- DoReceive: an input byte is left to send (R190). -/
def Node.sendPending (n : Node) : Bool := n.index < n.inBytes

end Sys2Proof.Machine
end

