-- ==== Sys2Proof/Machine/Ops.lean ====
section
/-! DEFINITION. The named operations over memory, nodes, registry, trace and inputs that the meanings share. -/
namespace Sys2Proof.Machine

/-! Vectors in canonical form. -/

/-- One byte of a vector; an unlisted index reads 0x00 (R200). -/
def Memory.read (m : Memory) (i : Nat) : Byte :=
  match m with
  | [] => Config.unlisted
  | (a, b) :: t => if a = i then b else Memory.read t i

/-- One byte written; the form stays canonical. -/
def Memory.write (m : Memory) (i : Nat) (v : Byte) : Memory :=
  match m with
  | [] => if v = Config.unlisted then [] else [(i, v)]
  | (a, b) :: t =>
    if i < a then (if v = Config.unlisted then (a, b) :: t else (i, v) :: (a, b) :: t)
    else if i = a then (if v = Config.unlisted then t else (i, v) :: t)
    else (a, b) :: Memory.write t i v

/-- The bytes of an array from index `i` on. -/
def Memory.ofBytesFrom (i : Nat) : List Byte → Memory
  | [] => []
  | b :: bs =>
    if b = Config.unlisted then Memory.ofBytesFrom (i + 1) bs else (i, b) :: Memory.ofBytesFrom (i + 1) bs

/-- The vector that holds a byte array (R9). -/
def Memory.ofBytes (bs : List Byte) : Memory := Memory.ofBytesFrom 0 bs

/-! The bounds-checked accessors (R17, R71). -/

/-- `MemRead((k, In, i), 1)` (R200). -/
def Node.inRead (n : Node) (i : Nat) : Byte := if i < n.inBytes then n.inVec.read i else 0x00#8

/-- `MemWrite((k, In, i), 1, v)` (R201). -/
def Node.inWrite (n : Node) (i : Nat) (v : Byte) : Node :=
  if i < n.inBytes then { n with inVec := n.inVec.write i v } else n

/-- `MemRead((k, Out, i), 1)` (R202). -/
def Node.outRead (n : Node) (i : Nat) : Byte := if i < n.outBytes then n.outVec.read i else 0x00#8

/-- `MemWrite((k, Out, i), 1, v)` (R203). -/
def Node.outWrite (n : Node) (i : Nat) (v : Byte) : Node :=
  if i < n.outBytes then { n with outVec := n.outVec.write i v } else n

/-! Trace, returned values, nodes. -/

/-- `emit E` (R18, R45). -/
def emit (e : Event) (s : State) : State := { s with trace := s.trace ++ [e] }

/-- A value returned to the caller (R22; log 9). -/
def report (r : Return) (s : State) : State := { s with returns := s.returns ++ [r] }

/-- `N[k] <- n`. -/
def setNode (k : Nat) (n : Node) (s : State) : State := { s with nodes := s.nodes.set k n }

/-- The report of a step outside DoReceive: a free value (R197; log 8). -/
def drawFinished (k : Nat) (s : State) : State :=
  { s with returns := s.returns ++ [.finished k (Config.stepReport s.draws)], draws := s.draws + 1 }

/-! Error reports: the block's exceptions. A report is an event; nothing is saved and control goes nowhere (R18, R220,
R231), so there is no return from one (R232). -/

/-- `raise K(loc)` of the decoder (R224). -/
def raiseDec (kind : ErrorKind) (loc : Nat) (s : State) : State := emit (.decErr kind loc) s

/-- `raise K` of node `k` (R225). -/
def raiseNode (kind : ErrorKind) (k : Nat) (n : Node) (s : State) : State := emit (.nodeErr kind k n.addr) s

/-! Node calls. An entry point either answers the node's new state or reports one error and leaves the node (R179). -/

/-- Entry point `f` of node `k`. -/
def callNode (k : Nat) (f : Node → Except ErrorKind Node) (s : State) : State :=
  match s.nodes[k]? with
  | none => s
  | some n =>
    match f n with
    | .ok n' => setNode k n' s
    | .error e => raiseNode e k n s

/-- `call op` of a decoder arm (R139): on the current node, or discarded when there is none (D5). -/
def callCur (f : Node → Except ErrorKind Node) (s : State) : State :=
  match s.dec.cur with
  | none => s
  | some k => callNode k f s

/-- An operation that names node `k`; a node that was never constructed faults (R33; log 12). -/
def withNode (k : Nat) (s : State) (f : Node → State) : Result :=
  match s.nodes[k]? with
  | none => .fault (.noSuchNode k)
  | some n => .next (f n)

/-! The decoder's registers. -/

/-- An arm that accepts its byte: the counter counts it (R120) and the state moves on. -/
def accept (q : DecState) (s : State) : State :=
  { s with dec := { state := q, loc := s.dec.loc + 1, cur := s.dec.cur } }

/-- An arm that reports its byte: the counter counts it first (R120, R224), the state stays. -/
def rejectByte (kind : ErrorKind) (s : State) : State :=
  raiseDec kind (s.dec.loc + 1) { s with dec := { s.dec with loc := s.dec.loc + 1 } }

/-- The address arm's writes (R127). -/
def selectNode (r : Option Nat) (s : State) : State :=
  { s with dec := { state := .waitType, loc := s.dec.loc + 1, cur := r } }

/-- The end arm's writes to the decoder (R134). -/
def endFrame (s : State) : State := { s with dec := { state := .waitSync1, loc := 0, cur := none } }

/-! The Registry. -/

/-- `lookup(a)` (R214). -/
def lookupReg (a : Addr) (s : State) : Option Nat := s.reg.get a

/-- Whether `register` of a node at address `a` is accepted (R211). -/
def regFree (a : Addr) (s : State) : Bool := s.reg.get a = none

/-- `register(k)` of a node at address `a`: the first registrant stays (R211); the result is returned. -/
def registerAt (k : Nat) (a : Addr) (s : State) : State :=
  if regFree a s then report (.accepted k true) { s with reg := s.reg.set a.val (some k) a.isLt }
  else report (.accepted k false) s

/-! Inputs. -/

/-- The oldest waiting input and the state without it. -/
def fetch (s : State) : Option (Input × State) :=
  match s.inbox with
  | [] => none
  | x :: rest => some (x, { s with inbox := rest })

/-- The clock duty (R256; log 10): a timed instruction may not be earlier than the clock. -/
def checkClock (i : Instr) (s : State) : Option Refusal :=
  match timeOf i with
  | none => none
  | some now => if now < s.clock then some (.clockWentBack now s.clock) else none

/-- A timed instruction moves the clock and ends construction (R256, D19; log 10, 11). -/
def startTransaction (i : Instr) (s : State) : State :=
  match timeOf i with
  | none => s
  | some now => { s with clock := now, started := true }

end Sys2Proof.Machine
end

