-- ==== Sys2Proof/Machine/Operands.lean ====
section
/-! DEFINITION. Operand assembly: the delay word, the init-set routine, a node from its descriptor, numeric codes, and the
view of one vector byte by node, side and index. -/
namespace Sys2Proof.Machine

/-- `zext_16(b) << 8` (R73, R167). -/
def delayHigh (b : Byte) : DelayWord := (b.setWidth 16) <<< 8

/-- `delay | zext_16(b)` (R73, R168). -/
def delayLow (d : DelayWord) (b : Byte) : DelayWord := d ||| b.setWidth 16

/-- `initSet(sub, i, b)` of a routine named by a descriptor (R170, D16; log 7). -/
def applyInitSet (r : Routine) (sub : SubState) (i : Nat) (b : Byte) : SubState :=
  match r with
  | .append => sub ++ [b]
  | .other name => Config.initSet name sub i b

/-- The node a descriptor gives, with the reset values of R47. -/
def Node.ofDesc (d : NodeDesc) : Node where
  addr       := Fin.ofNat 128 d.addr
  typeId     := d.typeId
  inBytes    := byteCount d.inBits
  outBytes   := byteCount d.outBits
  routine    := d.routine
  state      := .waitInit
  index      := 0
  numSets    := 0
  delay      := 0
  delayStart := 0
  sub        := d.subInit
  inVec      := Memory.ofBytes d.inInit
  outVec     := Memory.ofBytes d.outInit

/-- The two byte spaces of a node (R71). -/
inductive Side where
  | inp | out
deriving DecidableEq, Repr

/-- One byte of the block's memory: side and index of node `k`; a node that does not exist reads 0x00. -/
def State.readVec (s : State) (k : Nat) (side : Side) (i : Nat) : Byte :=
  match s.nodes[k]?, side with
  | none, _ => 0x00#8
  | some n, .inp => n.inRead i
  | some n, .out => n.outRead i

/-- Numeric code of a decoder state (R31, D7). -/
def decCode : DecState → Nat
  | .waitSync1 => 0
  | .waitSync2 => 1
  | .waitStx => 2
  | .waitAddr => 3
  | .waitType => 4
  | .waitData => 5
  | .waitRawData => 6

/-- Numeric code of a node state (R37, D7). -/
def nodeCode : NodeState → Nat
  | .waitInit => 0
  | .waitNodeDefParam => 1
  | .waitDelayHigh => 2
  | .waitDelayLow => 3
  | .waitNumSets => 4
  | .doInit => 5
  | .waitPoll => 6
  | .waitEndPoll => 7
  | .waitDelay => 8
  | .doReceive => 9
  | .waitTransmit => 10
  | .doTransmit => 11

/-- Numeric code of an error kind (R221, D8). -/
def errorCode : ErrorKind → Nat
  | .wrongChar => 0
  | .wrongAddress => 1
  | .wrongType => 2
  | .internalError => 3
  | .protocolError => 4
  | .initError => 5

end Sys2Proof.Machine
end

