-- ==== Sys2Proof/Machine/NodeEntry.lean ====
section
/-! DEFINITION. The node automaton's byte-driven entry points (R160 to R182) and the rows INIT, POLL, TRANSMIT, FEED,
END_OF_FRAME. A state a rule does not accept is the default arm R161: ProtocolError, node unchanged. -/
namespace Sys2Proof.Machine

/-- `init()` (R162). -/
def Node.init (n : Node) : Except ErrorKind Node :=
  match n.state with
  | .waitInit => .ok { n with state := .waitNodeDefParam }
  | .waitNodeDefParam | .waitDelayHigh | .waitDelayLow | .waitNumSets | .doInit | .waitPoll | .waitEndPoll | .waitDelay
  | .doReceive | .waitTransmit | .doTransmit => .error .protocolError

/-- `poll()` (R163). -/
def Node.poll (n : Node) : Except ErrorKind Node :=
  match n.state with
  | .waitPoll => .ok { n with state := .waitEndPoll }
  | .waitInit | .waitNodeDefParam | .waitDelayHigh | .waitDelayLow | .waitNumSets | .doInit | .waitEndPoll | .waitDelay
  | .doReceive | .waitTransmit | .doTransmit => .error .protocolError

/-- `transmit()` (R164). -/
def Node.transmit (n : Node) : Except ErrorKind Node :=
  match n.state with
  | .waitTransmit => .ok { n with index := 0, state := .doTransmit }
  | .waitInit | .waitNodeDefParam | .waitDelayHigh | .waitDelayLow | .waitNumSets | .doInit | .waitPoll | .waitEndPoll
  | .waitDelay | .doReceive | .doTransmit => .error .protocolError

/-- `feed(b)` (R165 to R173). -/
def Node.feed (b : Byte) (n : Node) : Except ErrorKind Node :=
  match n.state with
  | .waitNodeDefParam => if b = n.typeId then .ok { n with state := .waitDelayHigh } else .error .wrongType
  | .waitDelayHigh => .ok { n with delay := delayHigh b, state := .waitDelayLow }
  | .waitDelayLow => .ok { n with delay := delayLow n.delay b, state := .waitNumSets }
  | .waitNumSets => .ok { n with numSets := b, index := 0, state := .doInit }
  | .doInit =>
    if n.setsPending then .ok { n with sub := applyInitSet n.routine n.sub n.index b, index := n.index + 1 }
    else .error .protocolError
  | .doTransmit => .ok { n.outWrite n.index b with index := n.index + 1 }
  | .waitInit | .waitPoll | .waitEndPoll | .waitDelay | .doReceive | .waitTransmit => .error .protocolError

/-- `endOfFrame()` at time `now` (R174 to R178). -/
def Node.endOfFrame (now : Nat) (n : Node) : Except ErrorKind Node :=
  match n.state with
  | .doInit => if n.setsComplete then .ok { n with state := .waitPoll } else .error .initError
  | .waitEndPoll => .ok { n with delayStart := now, state := .waitDelay }
  | .doTransmit => .ok { n with state := .waitPoll }
  | .waitInit | .waitNodeDefParam | .waitDelayHigh | .waitDelayLow | .waitNumSets | .waitPoll | .waitDelay | .doReceive
  | .waitTransmit => .error .protocolError

/-- INIT (R162) on the current node. -/
def execInit (s : State) : Result := .next (callCur Node.init s)

/-- POLL (R163) on the current node. -/
def execPoll (s : State) : Result := .next (callCur Node.poll s)

/-- TRANSMIT (R164) on the current node. -/
def execTransmit (s : State) : Result := .next (callCur Node.transmit s)

/-- FEED (R165) on the current node. -/
def execFeed (b : Byte) (s : State) : Result := .next (callCur (Node.feed b) s)

/-- END_OF_FRAME (R174) on the current node. -/
def execEndOfFrame (now : Nat) (s : State) : Result := .next (callCur (Node.endOfFrame now) s)

end Sys2Proof.Machine
end

