-- ==== Sys2Proof/Machine/FrameDecoder.lean ====
section
/-! DEFINITION. The Frame Decoder: the 18 arms of `consume` (R121 to R138) and CONSUME, the whole transaction (R140). Each
arm is run in the decoder state its row names, which `decode` has read (log 17). -/
namespace Sys2Proof.Machine

/-- SYNC1 (R121). -/
def execSync1 (_now : Nat) (s : State) : Result := .next (accept .waitSync2 s)

/-- SYNC1_ERR (R122). -/
def execSync1Err (_b : Byte) (_now : Nat) (s : State) : Result := .next (rejectByte .wrongChar s)

/-- SYNC2 (R123). -/
def execSync2 (_now : Nat) (s : State) : Result := .next (accept .waitStx s)

/-- SYNC2_ERR (R124): no fall-back to WaitSync1. -/
def execSync2Err (_b : Byte) (_now : Nat) (s : State) : Result := .next (rejectByte .wrongChar s)

/-- STX (R125). -/
def execStx (_now : Nat) (s : State) : Result := .next (accept .waitAddr s)

/-- STX_ERR (R126). -/
def execStxErr (_b : Byte) (_now : Nat) (s : State) : Result := .next (rejectByte .wrongChar s)

/-- ADDR (R127). -/
def execAddr (a : Addr) (_now : Nat) (s : State) : Result := .next (selectNode (lookupReg a s) s)

/-- ADDR_ERR (R128). -/
def execAddrErr (_b : Byte) (_now : Nat) (s : State) : Result := .next (rejectByte .wrongAddress s)

/-- TYPE_INIT (R129). -/
def execTypeInit (_now : Nat) (s : State) : Result := .next (accept .waitData (callCur Node.init s))

/-- TYPE_POLL (R130). -/
def execTypePoll (_now : Nat) (s : State) : Result := .next (accept .waitData (callCur Node.poll s))

/-- TYPE_TRANSMIT (R131). -/
def execTypeTransmit (_now : Nat) (s : State) : Result := .next (accept .waitData (callCur Node.transmit s))

/-- TYPE_ERR (R132): stays in WaitType. -/
def execTypeErr (_b : Byte) (_now : Nat) (s : State) : Result := .next (rejectByte .wrongType s)

/-- DATA_ESC (R133). -/
def execDataEsc (_now : Nat) (s : State) : Result := .next (accept .waitRawData s)

/-- DATA_ETX (R134): the node's call first, then the counter and the reference are cleared. -/
def execDataEtx (now : Nat) (s : State) : Result := .next (endFrame (callCur (Node.endOfFrame now) s))

/-- DATA_CTRL_ERR (R135). -/
def execDataCtrlErr (_b : Byte) (_now : Nat) (s : State) : Result := .next (rejectByte .wrongChar s)

/-- DATA_BYTE (R136). -/
def execDataByte (b : Byte) (_now : Nat) (s : State) : Result := .next (accept .waitData (callCur (Node.feed b) s))

/-- RAW_CTRL (R137). -/
def execRawCtrl (b : Byte) (_now : Nat) (s : State) : Result := .next (accept .waitData (callCur (Node.feed b) s))

/-- RAW_ERR (R138): stays in WaitRawData. -/
def execRawErr (_b : Byte) (_now : Nat) (s : State) : Result := .next (rejectByte .wrongChar s)

/-- `consume(b, now)` as one function (R140). -/
def consume (b : Byte) (now : Nat) (s : State) : State :=
  match s.dec.state with
  | .waitSync1 => if b = SYN then accept .waitSync2 s else rejectByte .wrongChar s
  | .waitSync2 => if b = SYN then accept .waitStx s else rejectByte .wrongChar s
  | .waitStx => if b = STX then accept .waitAddr s else rejectByte .wrongChar s
  | .waitAddr => if isAddrByte b then selectNode (lookupReg (addrOfByte b) s) s else rejectByte .wrongAddress s
  | .waitType =>
    if b = TYPE_I then accept .waitData (callCur Node.init s)
    else if b = TYPE_P then accept .waitData (callCur Node.poll s)
    else if b = TYPE_T then accept .waitData (callCur Node.transmit s)
    else rejectByte .wrongType s
  | .waitData =>
    if b = ESC then accept .waitRawData s
    else if b = ETX then endFrame (callCur (Node.endOfFrame now) s)
    else if b = SYN || b = STX then rejectByte .wrongChar s
    else accept .waitData (callCur (Node.feed b) s)
  | .waitRawData => if isCtrl b then accept .waitData (callCur (Node.feed b) s) else rejectByte .wrongChar s

/-- CONSUME (R120, R140). -/
def execConsume (b : Byte) (now : Nat) (s : State) : Result := .next (consume b now s)

end Sys2Proof.Machine
end

