-- ==== Sys2Proof/Machine/NodeStep.lean ====
section
/-! DEFINITION. The node's time-driven step (R190 to R197), row STEP. -/
namespace Sys2Proof.Machine

/-- `step(k, now)` of node `n` = `N[k]`. -/
def stepNode (k : Nat) (now : Nat) (n : Node) (s : State) : State :=
  match n.state with
  | .waitDelay =>
    if n.delayElapsed now then
      drawFinished k (setNode k { n with index := 0, state := .doReceive } (emit (.txBegin k n.addr) s))
    else drawFinished k s
  | .doReceive =>
    if n.sendPending then
      report (.finished k false)
        (setNode k { n with index := n.index + 1 } (emit (.txByte k (n.inRead n.index)) s))
    else report (.finished k true) (setNode k { n with state := .waitTransmit } s)
  | .waitInit | .waitNodeDefParam | .waitDelayHigh | .waitDelayLow | .waitNumSets | .doInit | .waitPoll | .waitEndPoll
  | .waitTransmit | .doTransmit => drawFinished k s

/-- STEP (R190). -/
def execStep (k : Nat) (now : Nat) (s : State) : Result := withNode k s fun n => stepNode k now n s

end Sys2Proof.Machine
end

