-- ==== Sys2Proof/Machine/Registry.lean ====
section
/-! DEFINITION. Construction and the Node Registry (R210 to R216). -/
namespace Sys2Proof.Machine

/-- `N[NN] <- node; NN <- NN + 1` (R210). -/
def addNode (n : Node) (s : State) : State := { s with nodes := s.nodes ++ [n] }

/-- CONSTRUCT (R210): refused for a descriptor that is no configuration (R215) and after the first timed transaction
(D19; log 11); else the node is added under the next index and registered (R211). -/
def execConstruct (d : NodeDesc) (s : State) : Result :=
  match d.problem with
  | some r => .refused (.input r)
  | none =>
    if s.started then .refused .lateConstruction
    else .next (registerAt s.nodes.length (Node.ofDesc d).addr (addNode (Node.ofDesc d) s))

/-- REGISTER (R211). -/
def execRegister (k : Nat) (s : State) : Result := withNode k s fun n => registerAt k n.addr s

/-- LOOKUP (R214). -/
def execLookup (a : Addr) (s : State) : Result := .next (report (.found (lookupReg a s)) s)

end Sys2Proof.Machine
end

