-- ==== Sys2Proof/Machine/Vectors.lean ====
section
/-! DEFINITION. The vector accessors (R200 to R203) and the application accesses (R204, R205). -/
namespace Sys2Proof.Machine

/-- IN_READ (R200). -/
def execInRead (k : Nat) (i : Nat) (s : State) : Result := withNode k s fun n => report (.value (n.inRead i)) s

/-- IN_WRITE (R201). -/
def execInWrite (k : Nat) (i : Nat) (v : Byte) (s : State) : Result :=
  withNode k s fun n => setNode k (n.inWrite i v) s

/-- OUT_READ (R202). -/
def execOutRead (k : Nat) (i : Nat) (s : State) : Result := withNode k s fun n => report (.value (n.outRead i)) s

/-- OUT_WRITE (R203). -/
def execOutWrite (k : Nat) (i : Nat) (v : Byte) (s : State) : Result :=
  withNode k s fun n => setNode k (n.outWrite i v) s

/-- APP_WRITE_IN (R204): the input write of R201. -/
def execAppWriteIn (k : Nat) (i : Nat) (v : Byte) (s : State) : Result :=
  withNode k s fun n => setNode k (n.inWrite i v) s

/-- APP_READ_OUT (R205): the output read of R202. -/
def execAppReadOut (k : Nat) (i : Nat) (s : State) : Result := withNode k s fun n => report (.value (n.outRead i)) s

end Sys2Proof.Machine
end

