-- ==== Sys2Proof/Machine/Dispatch.lean ====
section
/-! DEFINITION. From each instruction to its meaning: one arm per constructor. -/
namespace Sys2Proof.Machine

def exec (i : Instr) (s : State) : Host.Outcome State Fault Refusal :=
  match i with
  | .sync1 now => Sys2Proof.Machine.execSync1 now s
  | .sync1Err b now => Sys2Proof.Machine.execSync1Err b now s
  | .sync2 now => Sys2Proof.Machine.execSync2 now s
  | .sync2Err b now => Sys2Proof.Machine.execSync2Err b now s
  | .stx now => Sys2Proof.Machine.execStx now s
  | .stxErr b now => Sys2Proof.Machine.execStxErr b now s
  | .addr a now => Sys2Proof.Machine.execAddr a now s
  | .addrErr b now => Sys2Proof.Machine.execAddrErr b now s
  | .typeInit now => Sys2Proof.Machine.execTypeInit now s
  | .typePoll now => Sys2Proof.Machine.execTypePoll now s
  | .typeTransmit now => Sys2Proof.Machine.execTypeTransmit now s
  | .typeErr b now => Sys2Proof.Machine.execTypeErr b now s
  | .dataEsc now => Sys2Proof.Machine.execDataEsc now s
  | .dataEtx now => Sys2Proof.Machine.execDataEtx now s
  | .dataCtrlErr b now => Sys2Proof.Machine.execDataCtrlErr b now s
  | .dataByte b now => Sys2Proof.Machine.execDataByte b now s
  | .rawCtrl b now => Sys2Proof.Machine.execRawCtrl b now s
  | .rawErr b now => Sys2Proof.Machine.execRawErr b now s
  | .consume b now => Sys2Proof.Machine.execConsume b now s
  | .init => Sys2Proof.Machine.execInit s
  | .poll => Sys2Proof.Machine.execPoll s
  | .transmit => Sys2Proof.Machine.execTransmit s
  | .feed b => Sys2Proof.Machine.execFeed b s
  | .endOfFrame now => Sys2Proof.Machine.execEndOfFrame now s
  | .step k now => Sys2Proof.Machine.execStep k now s
  | .inRead k j => Sys2Proof.Machine.execInRead k j s
  | .inWrite k j v => Sys2Proof.Machine.execInWrite k j v s
  | .outRead k j => Sys2Proof.Machine.execOutRead k j s
  | .outWrite k j v => Sys2Proof.Machine.execOutWrite k j v s
  | .appWriteIn k j v => Sys2Proof.Machine.execAppWriteIn k j v s
  | .appReadOut k j => Sys2Proof.Machine.execAppReadOut k j s
  | .construct d => Sys2Proof.Machine.execConstruct d s
  | .register k => Sys2Proof.Machine.execRegister k s
  | .lookup a => Sys2Proof.Machine.execLookup a s

end Sys2Proof.Machine
end

