-- ==== Sys2Proof/Machine/Step.lean ====
section
/-! DEFINITION. One step: the oldest waiting input is decoded in the decoder's state and run as one atomic transaction
(R80); with none waiting the block is idle (R241). -/
namespace Sys2Proof.Machine

def step (s : State) : Host.Outcome State Fault Refusal :=
  match fetch s with
  | none => .next s
  | some (x, s1) =>
    match decode s1.dec.state x with
    | .error r => .refused (.input r)
    | .ok i =>
      match checkClock i s1 with
      | some r => .refused r
      | none => exec i (startTransaction i s1)

/-- `s` with the one byte `w` as the next and only input, at the time of the clock, and the decoder in the state that byte
is read in by `decodeTableWord` (log 3, 4). A word that is no byte places nothing. -/
def State.withFetchWord (s : State) (nbits w : Nat) : State :=
  if nbits = 8 && w < 256 then
    { s with
      dec := { s.dec with state := tableState (BitVec.ofNat 8 w) }
      inbox := [.byte (BitVec.ofNat 8 w) s.clock] }
  else s

end Sys2Proof.Machine
end

