-- ==== Sys2Proof/Safety.lean ====
section
/-! DEFINITION. The terms of the claims: what a good state is, which registers of a node are live, what a transaction keeps,
and sequences of instructions. -/
namespace Sys2Proof.Machine

/-- Node `k`, which is `n`, is the one the frame in progress addresses (R33). -/
structure IsCur (s : State) (k : Nat) (n : Node) : Prop where
  cur  : s.dec.cur = some k
  node : s.nodes[k]? = some n

/-- In the header states no node is addressed (R34). -/
def HeaderUnaddressed (s : State) : Prop :=
  s.dec.state = .waitSync1 ∨ s.dec.state = .waitSync2 ∨ s.dec.state = .waitStx ∨ s.dec.state = .waitAddr →
    s.dec.cur = none

/-- The registry holds, for each address, the first node constructed with it, and nothing else (R212). -/
def FirstRegistrantWins (s : State) : Prop :=
  ∀ (a : Addr) (k : Nat), s.reg.get a = some k ↔
    (∃ n, s.nodes[k]? = some n ∧ n.addr = a) ∧ ∀ j m, j < k → s.nodes[j]? = some m → m.addr ≠ a

/-- The addressed node exists and is the registered node of its address (R127, R213). -/
def CurRegistered (s : State) : Prop :=
  ∀ k, s.dec.cur = some k → ∃ n, s.nodes[k]? = some n ∧ s.reg.get n.addr = some k

/-- A node that lost the registration never leaves WaitInit (R213). -/
def InertStill (s : State) : Prop :=
  ∀ k n, s.nodes[k]? = some n → s.reg.get n.addr ≠ some k → n.state = .waitInit

/-- Both vectors are in canonical form and list no index at or past their byte count (R71; log 15). -/
structure VectorsOk (n : Node) : Prop where
  inWf     : n.inVec.wf
  outWf    : n.outVec.wf
  inBound  : ∀ c ∈ n.inVec, c.1 < n.inBytes
  outBound : ∀ c ∈ n.outVec, c.1 < n.outBytes

/-- The counters stay in the ranges of R171, R194 and R183, and the delay's low byte is clear before it arrives (R168). -/
structure RegistersOk (n : Node) : Prop where
  sets  : n.state = .doInit → n.index ≤ n.numSets.toNat
  sent  : n.state = .doReceive → n.index ≤ n.inBytes
  delay : n.state = .waitDelayLow → n.delay.toNat % 256 = 0

/-- No delay starts after the clock (R11, R256). -/
def StartsPast (s : State) : Prop := ∀ n ∈ s.nodes, n.delayStart ≤ s.clock

/-- The invariant of the block. -/
structure Inv (s : State) : Prop where
  header    : HeaderUnaddressed s
  registry  : FirstRegistrantWins s
  cur       : CurRegistered s
  inert     : InertStill s
  vectors   : ∀ n ∈ s.nodes, VectorsOk n
  registers : ∀ n ∈ s.nodes, RegistersOk n
  starts    : StartsPast s

/-- The node has the configuration it had (R36). -/
structure SameConfig (n n' : Node) : Prop where
  addr     : n'.addr = n.addr
  typeId   : n'.typeId = n.typeId
  inBytes  : n'.inBytes = n.inBytes
  outBytes : n'.outBytes = n.outBytes
  routine  : n'.routine = n.routine

/-- Everything but the nodes, the decoder and the trace is as it was. -/
structure SameOutside (s t : State) : Prop where
  reg     : t.reg = s.reg
  returns : t.returns = s.returns
  draws   : t.draws = s.draws
  clock   : t.clock = s.clock
  started : t.started = s.started
  inbox   : t.inbox = s.inbox

/-- The node with every register that will be written before it is read set to 0 (R43). -/
def Node.live (n : Node) : Node :=
  match n.state with
  | .waitInit | .waitNodeDefParam | .waitDelayHigh => { n with index := 0, numSets := 0, delay := 0, delayStart := 0 }
  | .waitDelayLow | .waitNumSets | .waitPoll | .waitEndPoll | .waitTransmit =>
    { n with index := 0, numSets := 0, delayStart := 0 }
  | .doInit => { n with delayStart := 0 }
  | .waitDelay => { n with index := 0, numSets := 0 }
  | .doReceive | .doTransmit => { n with numSets := 0, delayStart := 0 }

/-- The state with every such register of every node set to 0. -/
def State.live (s : State) : State := { s with nodes := s.nodes.map Node.live }

/-- Instructions run one after another, stopping at the first fault or refusal. -/
def execAll : List Instr → State → Result
  | [], s => .next s
  | i :: is, s =>
    match exec i s with
    | .next s' => execAll is s'
    | .fault r => .fault r
    | .refused r => .refused r

/-- The bytes of a stream, each with its time, as CONSUME instructions. -/
def consumes (bs : List (Byte × Nat)) : List Instr := bs.map fun p => .consume p.1 p.2

/-- A run of payload calls `feed(p[0]), feed(p[1]), ...` on node `k`, or on none (R139). -/
def feedAll (p : List Byte) (s : State) : State := p.foldl (fun s b => callCur (Node.feed b) s) s

end Sys2Proof.Machine
end

