-- ==== Sys2Proof/Certificates/Slice0/Obligations.lean ====
section
/-! DEFINITION. The statements for the provers. Each docstring names the rules of spec/ it formalises. -/

open Sys2Proof Sys2Proof.Machine

/-! Encoding and stepping. -/

/-- For every well-formed instruction, decoding its encoding in the decoder state of its row (in any state, for a call) gives
it back (30_encoding.md sections 2 and 5). -/
def Obligations.DecodeOfEncodeIsTheInstruction : Prop :=
  ∀ (i : Instr) (q : DecState), WellFormed i → (∀ p, rowState i = some p → q = p) → decode q (encode i) = .ok i

/-- Every input the decoder accepts is the encoding of what it decodes to, which is well formed and of a row of that decoder
state, so no two instructions share an input in a state (30_encoding.md section 5). -/
def Obligations.DecodedInputIsItsEncoding : Prop :=
  ∀ (q : DecState) (x : Input) (i : Instr), decode q x = .ok i →
    encode i = x ∧ WellFormed i ∧ ∀ p, rowState i = some p → p = q

/-- The opcode map, row by row, with the byte classes written out (30_encoding.md section 5). The values 0x50 of 'P' and 0x54
of 'T' are presumed (log 20). -/
def Obligations.EveryByteSelectsItsRow : Prop :=
  ∀ (b : Byte) (now : Nat),
    (b = 0xFF#8 → decodeByte .waitSync1 b now = .sync1 now) ∧
    (b ≠ 0xFF#8 → decodeByte .waitSync1 b now = .sync1Err b now) ∧
    (b = 0xFF#8 → decodeByte .waitSync2 b now = .sync2 now) ∧
    (b ≠ 0xFF#8 → decodeByte .waitSync2 b now = .sync2Err b now) ∧
    (b = 0x02#8 → decodeByte .waitStx b now = .stx now) ∧
    (b ≠ 0x02#8 → decodeByte .waitStx b now = .stxErr b now) ∧
    (∀ a : Addr, b.toNat = a.val + 65 → decodeByte .waitAddr b now = .addr a now) ∧
    (b.toNat < 0x41 ∨ 0xC0 < b.toNat → decodeByte .waitAddr b now = .addrErr b now) ∧
    (b = 0x49#8 → decodeByte .waitType b now = .typeInit now) ∧
    (b = 0x50#8 → decodeByte .waitType b now = .typePoll now) ∧
    (b = 0x54#8 → decodeByte .waitType b now = .typeTransmit now) ∧
    (b ≠ 0x49#8 ∧ b ≠ 0x50#8 ∧ b ≠ 0x54#8 → decodeByte .waitType b now = .typeErr b now) ∧
    (b = 0x10#8 → decodeByte .waitData b now = .dataEsc now) ∧
    (b = 0x03#8 → decodeByte .waitData b now = .dataEtx now) ∧
    (b = 0xFF#8 ∨ b = 0x02#8 → decodeByte .waitData b now = .dataCtrlErr b now) ∧
    (b ≠ 0x10#8 ∧ b ≠ 0x03#8 ∧ b ≠ 0xFF#8 ∧ b ≠ 0x02#8 → decodeByte .waitData b now = .dataByte b now) ∧
    (b = 0x10#8 ∨ b = 0x03#8 ∨ b = 0xFF#8 ∨ b = 0x02#8 → decodeByte .waitRawData b now = .rawCtrl b now) ∧
    (b ≠ 0x10#8 ∧ b ≠ 0x03#8 ∧ b ≠ 0xFF#8 ∧ b ≠ 0x02#8 → decodeByte .waitRawData b now = .rawErr b now)

/-- Sample words of the decoder rows and of a call, written out from the opcode map (30_encoding.md section 5). That 0x52 is
no type byte rests on the presumed values of 'P' and 'T' (log 20). -/
def Obligations.SampleWordsDecode : Prop :=
  decode .waitSync1 (.byte 0b11111111#8 3) = .ok (.sync1 3) ∧
  decode .waitStx (.byte 0b00000010#8 3) = .ok (.stx 3) ∧
  decode .waitAddr (.byte 0b11000000#8 3) = .ok (.addr 127 3) ∧
  decode .waitAddr (.byte 0b11000001#8 3) = .ok (.addrErr 0xC1#8 3) ∧
  decode .waitType (.byte 0b01010010#8 3) = .ok (.typeErr 0x52#8 3) ∧
  decode .waitRawData (.byte 0b00000011#8 3) = .ok (.rawCtrl 0x03#8 3) ∧
  decode .waitData (.call (.step 2 9)) = .ok (.step 2 9)

/-- A step takes the oldest input, decodes it in the decoder's state and is `exec` of it at the state without that input,
where a timed instruction moves the clock and ends construction; the time must not be below the clock (20_memory.md section
5, 70_reset_and_hazards.md section 3; the clock, `started` and the inbox are the model's, log 1, 10, 11). -/
def Obligations.StepRunsTheDecodedInstruction : Prop :=
  ∀ (s : State) (x : Input) (rest : List Input) (i : Instr), s.inbox = x :: rest → decode s.dec.state x = .ok i →
    (∀ now, timeOf i = some now → s.clock ≤ now →
      step s = exec i { s with inbox := rest, clock := now, started := true }) ∧
    (timeOf i = none → step s = exec i { s with inbox := rest })

/-- With no input waiting a step changes nothing (60_exceptions.md section 9; log 2). -/
def Obligations.IdleStepChangesNothing : Prop :=
  ∀ s : State, s.inbox = [] → step s = .next s

/-- What the block refuses: a re-entrant call, a second decoder, and a timed instruction earlier than the clock
(60_exceptions.md sections 1 and 8, 93_implementation_defined.md U13, U14, U16; log 10, 16). -/
def Obligations.InputsOutsideTheSpecAreRefused : Prop :=
  ∀ (s : State) (x : Input) (rest : List Input), s.inbox = x :: rest →
    (∀ c, x = .reenter c → step s = .refused (.input .reentrantCall)) ∧
    (x = .attachDecoder → step s = .refused (.input .secondDecoder)) ∧
    (∀ i now, decode s.dec.state x = .ok i → timeOf i = some now → now < s.clock →
      step s = .refused (.clockWentBack now s.clock))

/-- Every wire byte on time runs, whatever the state: no error is fatal (60_exceptions.md section 1). That every byte but an
accepted end byte counts is decision D3 of the spec (log 14). -/
def Obligations.EveryByteOnTimeRuns : Prop :=
  ∀ (s : State) (b : Byte) (now : Nat) (rest : List Input), s.inbox = .byte b now :: rest → s.clock ≤ now →
    ∃ t, step s = .next t ∧ t.inbox = rest ∧ t.clock = now ∧
      t.dec.loc = if s.dec.state = .waitData ∧ b = 0x03#8 then 0 else s.dec.loc + 1

/-! The Frame Decoder. -/

/-- R121, R123, R125, R133: the bytes that only move the decoder on. -/
def Obligations.ExpectedFramingBytesAdvance : Prop :=
  ∀ (s : State) (now : Nat),
    (s.dec.state = .waitSync1 → decodeByte s.dec.state 0xFF#8 now = .sync1 now ∧
      exec (.sync1 now) s = .next { s with dec := { state := .waitSync2, loc := s.dec.loc + 1, cur := s.dec.cur } }) ∧
    (s.dec.state = .waitSync2 → decodeByte s.dec.state 0xFF#8 now = .sync2 now ∧
      exec (.sync2 now) s = .next { s with dec := { state := .waitStx, loc := s.dec.loc + 1, cur := s.dec.cur } }) ∧
    (s.dec.state = .waitStx → decodeByte s.dec.state 0x02#8 now = .stx now ∧
      exec (.stx now) s = .next { s with dec := { state := .waitAddr, loc := s.dec.loc + 1, cur := s.dec.cur } }) ∧
    (s.dec.state = .waitData → decodeByte s.dec.state 0x10#8 now = .dataEsc now ∧
      exec (.dataEsc now) s = .next { s with dec := { state := .waitRawData, loc := s.dec.loc + 1, cur := s.dec.cur } })

/-- A wrong sync or start byte is a WrongChar and the state stays (40_frame_decoder.md section 2). That the reported position
counts the byte itself is decision D3 of the spec (log 14). -/
def Obligations.WrongHeaderBytesAreWrongChar : Prop :=
  ∀ (s : State) (b : Byte) (now : Nat),
    (s.dec.state = .waitSync1 → b ≠ 0xFF#8 → decodeByte s.dec.state b now = .sync1Err b now ∧
      exec (.sync1Err b now) s = .next { s with
        dec := { state := .waitSync1, loc := s.dec.loc + 1, cur := s.dec.cur }
        trace := s.trace ++ [.decErr .wrongChar (s.dec.loc + 1)] }) ∧
    (s.dec.state = .waitSync2 → b ≠ 0xFF#8 → decodeByte s.dec.state b now = .sync2Err b now ∧
      exec (.sync2Err b now) s = .next { s with
        dec := { state := .waitSync2, loc := s.dec.loc + 1, cur := s.dec.cur }
        trace := s.trace ++ [.decErr .wrongChar (s.dec.loc + 1)] }) ∧
    (s.dec.state = .waitStx → b ≠ 0x02#8 → decodeByte s.dec.state b now = .stxErr b now ∧
      exec (.stxErr b now) s = .next { s with
        dec := { state := .waitStx, loc := s.dec.loc + 1, cur := s.dec.cur }
        trace := s.trace ++ [.decErr .wrongChar (s.dec.loc + 1)] })

/-- R127: an address byte 0x41..0xC0 selects the registry entry of address `b - 65`, which may be none. -/
def Obligations.AddressByteSelectsTheRegisteredNode : Prop :=
  ∀ (s : State) (b : Byte) (now : Nat), s.dec.state = .waitAddr → 0x41 ≤ b.toNat → b.toNat ≤ 0xC0 →
    ∃ a : Addr, a.val = b.toNat - 65 ∧ decodeByte s.dec.state b now = .addr a now ∧
      exec (.addr a now) s = .next { s with
        dec := { state := .waitType, loc := s.dec.loc + 1, cur := s.reg.get a } }

/-- A byte outside 0x41..0xC0 in WaitAddr is a WrongAddress and a byte other than 'I', 'P', 'T' in WaitType (the reserved 'R'
too) a WrongType; state and current node stay (40_frame_decoder.md section 3). The reported position is decision D3 of the
spec (log 14), and the values of 'P' and 'T' are presumed (log 20). -/
def Obligations.WrongAddressAndTypeBytesAreReported : Prop :=
  ∀ (s : State) (b : Byte) (now : Nat),
    (s.dec.state = .waitAddr → b.toNat < 0x41 ∨ 0xC0 < b.toNat → decodeByte s.dec.state b now = .addrErr b now ∧
      exec (.addrErr b now) s = .next { s with
        dec := { state := .waitAddr, loc := s.dec.loc + 1, cur := s.dec.cur }
        trace := s.trace ++ [.decErr .wrongAddress (s.dec.loc + 1)] }) ∧
    (s.dec.state = .waitType → b ≠ 0x49#8 → b ≠ 0x50#8 → b ≠ 0x54#8 → decodeByte s.dec.state b now = .typeErr b now ∧
      exec (.typeErr b now) s = .next { s with
        dec := { state := .waitType, loc := s.dec.loc + 1, cur := s.dec.cur }
        trace := s.trace ++ [.decErr .wrongType (s.dec.loc + 1)] })

/-- The type bytes 'I', 'P', 'T' run the node's control call and move the decoder to WaitData (40_frame_decoder.md section
3). The values of 'P' and 'T' are presumed (log 20). -/
def Obligations.TypeBytesRunTheirControlCall : Prop :=
  ∀ (s : State) (now : Nat), s.dec.state = .waitType →
    (decodeByte s.dec.state 0x49#8 now = .typeInit now ∧ ∃ u, exec .init s = .next u ∧
      exec (.typeInit now) s = .next { u with dec := { state := .waitData, loc := s.dec.loc + 1, cur := s.dec.cur } }) ∧
    (decodeByte s.dec.state 0x50#8 now = .typePoll now ∧ ∃ u, exec .poll s = .next u ∧
      exec (.typePoll now) s = .next { u with dec := { state := .waitData, loc := s.dec.loc + 1, cur := s.dec.cur } }) ∧
    (decodeByte s.dec.state 0x54#8 now = .typeTransmit now ∧ ∃ u, exec .transmit s = .next u ∧
      exec (.typeTransmit now) s =
        .next { u with dec := { state := .waitData, loc := s.dec.loc + 1, cur := s.dec.cur } })

/-- The end byte runs the node's endOfFrame and then clears the counter and the current node (40_frame_decoder.md section 4;
decisions D3 and D6 of the spec). -/
def Obligations.EndByteEndsTheFrame : Prop :=
  ∀ (s : State) (now : Nat), s.dec.state = .waitData → decodeByte s.dec.state 0x03#8 now = .dataEtx now ∧
    ∃ u, exec (.endOfFrame now) s = .next u ∧
      exec (.dataEtx now) s = .next { u with dec := { state := .waitSync1, loc := 0, cur := none } }

/-- An unescaped 0xFF or 0x02, and a non-control byte after an escape, are WrongChar; no node is called and the state stays
(40_frame_decoder.md section 4). The reported position is decision D3 of the spec (log 14). -/
def Obligations.WrongPayloadBytesAreWrongChar : Prop :=
  ∀ (s : State) (b : Byte) (now : Nat),
    (s.dec.state = .waitData → b = 0xFF#8 ∨ b = 0x02#8 → decodeByte s.dec.state b now = .dataCtrlErr b now ∧
      exec (.dataCtrlErr b now) s = .next { s with
        dec := { state := .waitData, loc := s.dec.loc + 1, cur := s.dec.cur }
        trace := s.trace ++ [.decErr .wrongChar (s.dec.loc + 1)] }) ∧
    (s.dec.state = .waitRawData → b ≠ 0x10#8 → b ≠ 0x03#8 → b ≠ 0xFF#8 → b ≠ 0x02#8 →
      decodeByte s.dec.state b now = .rawErr b now ∧
      exec (.rawErr b now) s = .next { s with
        dec := { state := .waitRawData, loc := s.dec.loc + 1, cur := s.dec.cur }
        trace := s.trace ++ [.decErr .wrongChar (s.dec.loc + 1)] })

/-- R136, R137: a payload byte outside CTRL, and a control byte after an escape, are fed to the node literally. -/
def Obligations.PayloadBytesAreFed : Prop :=
  ∀ (s : State) (b : Byte) (now : Nat),
    (s.dec.state = .waitData → b ≠ 0x10#8 → b ≠ 0x03#8 → b ≠ 0xFF#8 → b ≠ 0x02#8 →
      decodeByte s.dec.state b now = .dataByte b now ∧ ∃ u, exec (.feed b) s = .next u ∧
      exec (.dataByte b now) s = .next { u with dec := { state := .waitData, loc := s.dec.loc + 1, cur := s.dec.cur } }) ∧
    (s.dec.state = .waitRawData → b = 0x10#8 ∨ b = 0x03#8 ∨ b = 0xFF#8 ∨ b = 0x02#8 →
      decodeByte s.dec.state b now = .rawCtrl b now ∧ ∃ u, exec (.feed b) s = .next u ∧
      exec (.rawCtrl b now) s = .next { u with dec := { state := .waitData, loc := s.dec.loc + 1, cur := s.dec.cur } })

/-- The whole transaction is the arm its byte selects (40_frame_decoder.md section 5). -/
def Obligations.ConsumeIsTheSelectedArm : Prop :=
  ∀ (s : State) (b : Byte) (now : Nat), exec (.consume b now) s = exec (decodeByte s.dec.state b now) s

/-- CONSUME always completes, counts its byte unless it ends the frame, and emits at most one event
(40_frame_decoder.md sections 1 and 5; decision D3). -/
def Obligations.ConsumeCompletesWithAtMostOneEvent : Prop :=
  ∀ (s : State) (b : Byte) (now : Nat), ∃ t, exec (.consume b now) s = .next t ∧
    t.dec.loc = (if s.dec.state = .waitData ∧ b = 0x03#8 then 0 else s.dec.loc + 1) ∧
    (t.trace = s.trace ∨ ∃ e, t.trace = s.trace ++ [e])

/-- A call with no current node is discarded without a report (40_frame_decoder.md section 1, decision D5 of the spec). -/
def Obligations.CallsToAnAbsentNodeAreDiscarded : Prop :=
  ∀ (s : State) (b : Byte) (now : Nat), s.dec.cur = none →
    exec .init s = .next s ∧ exec .poll s = .next s ∧ exec .transmit s = .next s ∧ exec (.feed b) s = .next s ∧
    exec (.endOfFrame now) s = .next s

/-- The frame of the decoder rows that call no node: every node, every vector byte, the registry and the rest stay. A row that
accepts its byte changes `D` only and reports nothing; an error row advances the counter only and reports once
(40_frame_decoder.md sections 2 to 4, 60_exceptions.md section 1). The reported position is decision D3 of the spec (log 14). -/
def Obligations.DecoderOnlyRowsLeaveTheNodes : Prop :=
  ∀ (i : Instr) (s t : State) (b : Byte) (a : Addr) (now : Nat), exec i s = .next t →
    (i ∈ [.sync1 now, .sync2 now, .stx now, .addr a now, .dataEsc now] →
      SameOutside s t ∧ t.nodes = s.nodes ∧ (∀ k side j, t.readVec k side j = s.readVec k side j) ∧
      t.dec.loc = s.dec.loc + 1 ∧ t.trace = s.trace) ∧
    (i ∈ [.sync1Err b now, .sync2Err b now, .stxErr b now, .addrErr b now, .typeErr b now, .dataCtrlErr b now,
        .rawErr b now] →
      SameOutside s t ∧ t.nodes = s.nodes ∧ (∀ k side j, t.readVec k side j = s.readVec k side j) ∧
      t.dec = { s.dec with loc := s.dec.loc + 1 } ∧ ∃ kind, t.trace = s.trace ++ [.decErr kind (s.dec.loc + 1)])

/-- The frame of CONSUME and of the decoder rows that call a node: outside `D`, the trace and the current node everything
stays, and the only vector byte that can change is `outVec[index]` of the current node in DoTransmit, and only when a
payload byte is fed: by DATA_BYTE or RAW_CTRL, or by a CONSUME whose byte selects one of these rows (41_node_automaton.md
sections 1 and 3, 40_frame_decoder.md section 1). -/
def Obligations.NodeCallingRowsTouchOnlyTheCurrentNode : Prop :=
  ∀ (i : Instr) (s t : State) (b : Byte) (now : Nat),
    i ∈ [.typeInit now, .typePoll now, .typeTransmit now, .dataEtx now, .dataByte b now, .rawCtrl b now,
      .consume b now] →
    exec i s = .next t →
      SameOutside s t ∧ (∀ j, s.dec.cur ≠ some j → t.nodes[j]? = s.nodes[j]?) ∧
      (∀ k side j,
        ¬ (side = .out ∧ (i = .dataByte b now ∨ i = .rawCtrl b now ∨ i = .consume b now ∧
            (decodeByte s.dec.state b now = .dataByte b now ∨ decodeByte s.dec.state b now = .rawCtrl b now)) ∧
          ∃ n, IsCur s k n ∧ n.state = .doTransmit ∧ j = n.index) →
        t.readVec k side j = s.readVec k side j)

/-! The node automaton, byte-driven. -/

/-- R162, R163, R164: each control call is accepted in one state and is a ProtocolError with no change in every other. -/
def Obligations.ControlCallsAreAcceptedInOneState : Prop :=
  ∀ (s : State) (k : Nat) (n : Node), IsCur s k n →
    (n.state = .waitInit →
      exec .init s = .next { s with nodes := s.nodes.set k { n with state := .waitNodeDefParam } }) ∧
    (n.state ≠ .waitInit → exec .init s = .next { s with trace := s.trace ++ [.nodeErr .protocolError k n.addr] }) ∧
    (n.state = .waitPoll →
      exec .poll s = .next { s with nodes := s.nodes.set k { n with state := .waitEndPoll } }) ∧
    (n.state ≠ .waitPoll → exec .poll s = .next { s with trace := s.trace ++ [.nodeErr .protocolError k n.addr] }) ∧
    (n.state = .waitTransmit →
      exec .transmit s = .next { s with nodes := s.nodes.set k { n with index := 0, state := .doTransmit } }) ∧
    (n.state ≠ .waitTransmit →
      exec .transmit s = .next { s with trace := s.trace ++ [.nodeErr .protocolError k n.addr] })

/-- R166: the type identifier, or a WrongType report of the node. -/
def Obligations.FeedChecksTheTypeIdentifier : Prop :=
  ∀ (s : State) (k : Nat) (n : Node) (b : Byte), IsCur s k n → n.state = .waitNodeDefParam →
    (b = n.typeId → exec (.feed b) s = .next { s with nodes := s.nodes.set k { n with state := .waitDelayHigh } }) ∧
    (b ≠ n.typeId → exec (.feed b) s = .next { s with trace := s.trace ++ [.nodeErr .wrongType k n.addr] })

/-- R167, R168, R169: the delay bytes and the set count. -/
def Obligations.FeedLoadsDelayAndSetCount : Prop :=
  ∀ (s : State) (k : Nat) (n : Node) (b : Byte), IsCur s k n →
    (n.state = .waitDelayHigh → exec (.feed b) s = .next { s with
      nodes := s.nodes.set k { n with delay := b.setWidth 16 <<< 8, state := .waitDelayLow } }) ∧
    (n.state = .waitDelayLow → exec (.feed b) s = .next { s with
      nodes := s.nodes.set k { n with delay := n.delay ||| b.setWidth 16, state := .waitNumSets } }) ∧
    (n.state = .waitNumSets → exec (.feed b) s = .next { s with
      nodes := s.nodes.set k { n with numSets := b, index := 0, state := .doInit } })

/-- R73: the two delay bytes arrive high byte first, whatever the delay was. -/
def Obligations.DelayIsBigEndianOnTheWire : Prop :=
  ∀ (s : State) (k : Nat) (n : Node) (hi lo : Byte), IsCur s k n → n.state = .waitDelayHigh →
    ∃ t n', execAll [.feed hi, .feed lo] s = .next t ∧ t.nodes[k]? = some n' ∧ n'.state = .waitNumSets ∧
      n'.delay = (hi.setWidth 16 <<< 8 ||| lo.setWidth 16) ∧ n'.delay.toNat = hi.toNat * 256 + lo.toNat

/-- An expected set byte goes through the node's init-set routine with its index, and a surplus one is a ProtocolError
(41_node_automaton.md section 3; the routine is the configuration's, decision D16 and log 7). -/
def Obligations.FeedDecodesInitSets : Prop :=
  ∀ (s : State) (k : Nat) (n : Node) (b : Byte), IsCur s k n → n.state = .doInit →
    (∀ name, n.routine = .other name → n.index < n.numSets.toNat → exec (.feed b) s = .next { s with
      nodes := s.nodes.set k { n with sub := Config.initSet name n.sub n.index b, index := n.index + 1 } }) ∧
    (n.routine = .append → n.index < n.numSets.toNat → exec (.feed b) s = .next { s with
      nodes := s.nodes.set k { n with sub := n.sub ++ [b], index := n.index + 1 } }) ∧
    (n.numSets.toNat ≤ n.index →
      exec (.feed b) s = .next { s with trace := s.trace ++ [.nodeErr .protocolError k n.addr] })

/-- In DoTransmit a payload byte is stored at `index` when that is below `outBytes` and dropped otherwise; `index` counts
either way, and every other byte of every vector stays (41_node_automaton.md section 3, decision D10 of the spec). The
premise on the vector is an invariant, stated by InvariantIsKeptByEveryStep. -/
def Obligations.FeedStoresOneOutputByte : Prop :=
  ∀ (s : State) (k : Nat) (n : Node) (b : Byte), IsCur s k n → n.state = .doTransmit → n.outVec.wf →
    ∃ t n', exec (.feed b) s = .next t ∧ t.nodes = s.nodes.set k n' ∧ n'.index = n.index + 1 ∧
      { n' with index := n.index, outVec := n.outVec } = n ∧ t.trace = s.trace ∧ t.dec = s.dec ∧ SameOutside s t ∧
      (n.index < n.outBytes → t.readVec k .out n.index = b) ∧
      (∀ k' side j, ¬ (k' = k ∧ side = .out ∧ j = n.index ∧ n.index < n.outBytes) →
        t.readVec k' side j = s.readVec k' side j)

/-- R173: a payload byte in a state that expects none is a ProtocolError with no change. -/
def Obligations.FeedElsewhereIsAProtocolError : Prop :=
  ∀ (s : State) (k : Nat) (n : Node) (b : Byte), IsCur s k n →
    n.state ∈ [.waitInit, .waitPoll, .waitEndPoll, .waitDelay, .doReceive, .waitTransmit] →
    exec (.feed b) s = .next { s with trace := s.trace ++ [.nodeErr .protocolError k n.addr] }

/-- R175, R176, R177, R178: the end of a frame in every state of the node. -/
def Obligations.EndOfFrameByNodeState : Prop :=
  ∀ (s : State) (k : Nat) (n : Node) (now : Nat), IsCur s k n →
    (n.state = .doInit → n.index = n.numSets.toNat →
      exec (.endOfFrame now) s = .next { s with nodes := s.nodes.set k { n with state := .waitPoll } }) ∧
    (n.state = .doInit → n.index ≠ n.numSets.toNat →
      exec (.endOfFrame now) s = .next { s with trace := s.trace ++ [.nodeErr .initError k n.addr] }) ∧
    (n.state = .waitEndPoll → exec (.endOfFrame now) s = .next { s with
      nodes := s.nodes.set k { n with delayStart := now, state := .waitDelay } }) ∧
    (n.state = .doTransmit →
      exec (.endOfFrame now) s = .next { s with nodes := s.nodes.set k { n with state := .waitPoll } }) ∧
    (n.state ∈ [.waitInit, .waitNodeDefParam, .waitDelayHigh, .waitDelayLow, .waitNumSets, .waitPoll, .waitDelay,
        .doReceive, .waitTransmit] →
      exec (.endOfFrame now) s = .next { s with trace := s.trace ++ [.nodeErr .protocolError k n.addr] })

/-- An entry point reads and writes its own node and the trace only: it either reports one error of that node and changes
nothing else, or changes that node without a report; its input vector, its configuration, every other node and everything
else stay, and so does every vector byte but `outVec[index]` of that node when DoTransmit is fed (41_node_automaton.md
sections 1, 3 and 5). -/
def Obligations.EntryPointsTouchOnlyTheirNode : Prop :=
  ∀ (i : Instr) (s t : State) (k : Nat) (n : Node) (b : Byte) (now : Nat),
    i ∈ [.init, .poll, .transmit, .feed b, .endOfFrame now] → IsCur s k n → exec i s = .next t →
      t.dec = s.dec ∧ SameOutside s t ∧ (∀ j, j ≠ k → t.nodes[j]? = s.nodes[j]?) ∧
      (∃ n', t.nodes[k]? = some n' ∧ SameConfig n n' ∧ n'.inVec = n.inVec) ∧
      (∀ k' side j, ¬ (i = .feed b ∧ n.state = .doTransmit ∧ k' = k ∧ side = .out ∧ j = n.index) →
        t.readVec k' side j = s.readVec k' side j) ∧
      ((t.nodes = s.nodes ∧ ∃ kind, t.trace = s.trace ++ [.nodeErr kind k n.addr]) ∨
        (t.trace = s.trace ∧ t.nodes ≠ s.nodes))

/-- The protocol cycle of a node from WaitInit to WaitDelay, for any number of set bytes (41_node_automaton.md section 5). -/
def Obligations.ProtocolCycleReachesWaitDelay : Prop :=
  ∀ (s : State) (k : Nat) (n : Node) (hi lo num : Byte) (sets : List Byte) (e t0 : Nat), IsCur s k n →
    n.state = .waitInit → sets.length = num.toNat →
    ∃ t n', execAll ([.init, .feed n.typeId, .feed hi, .feed lo, .feed num] ++ sets.map .feed ++
        [.endOfFrame e, .poll, .endOfFrame t0]) s = .next t ∧
      t.trace = s.trace ∧ t.nodes[k]? = some n' ∧ n'.state = .waitDelay ∧ n'.delay.toNat = hi.toNat * 256 + lo.toNat ∧
      n'.numSets = num ∧ n'.index = num.toNat ∧ n'.delayStart = t0

/-! The node's step. -/

/-- The first step at or after the delay begins the response: one TxBegin with the node's address, index 0, DoReceive, and a
report that is a free value (42_node_step_and_vectors.md section 1, decisions D12, D13, D15, D25 of the spec; log 8). -/
def Obligations.StepAfterTheDelayBeginsTheResponse : Prop :=
  ∀ (s : State) (k : Nat) (n : Node) (now : Nat), s.nodes[k]? = some n → n.state = .waitDelay →
    n.delayStart + n.delay.toNat ≤ now →
    ∃ done d, exec (.step k now) s = .next { s with
      nodes := s.nodes.set k { n with index := 0, state := .doReceive }
      trace := s.trace ++ [.txBegin k n.addr]
      returns := s.returns ++ [.finished k done]
      draws := d }

/-- A step before the delay has elapsed, or in a state other than WaitDelay and DoReceive, changes nothing and reports a free
value (42_node_step_and_vectors.md section 1, decisions D13, D14 of the spec; log 8). -/
def Obligations.StepElsewhereChangesNothing : Prop :=
  ∀ (s : State) (k : Nat) (n : Node) (now : Nat), s.nodes[k]? = some n →
    (n.state = .waitDelay ∧ now < n.delayStart + n.delay.toNat) ∨ (n.state ≠ .waitDelay ∧ n.state ≠ .doReceive) →
    ∃ done d, exec (.step k now) s = .next { s with returns := s.returns ++ [.finished k done], draws := d }

/-- A step in DoReceive with bytes left sends the byte at `index` as it is now and reports not finished
(42_node_step_and_vectors.md section 1, decision D12 of the spec). -/
def Obligations.StepSendsTheNextInputByte : Prop :=
  ∀ (s : State) (k : Nat) (n : Node) (now : Nat), s.nodes[k]? = some n → n.state = .doReceive →
    n.index < n.inBytes →
    exec (.step k now) s = .next { s with
      nodes := s.nodes.set k { n with index := n.index + 1 }
      trace := s.trace ++ [.txByte k (s.readVec k .inp n.index)]
      returns := s.returns ++ [.finished k false] }

/-- R194: a step in DoReceive with no byte left moves to WaitTransmit and reports finished. -/
def Obligations.StepFinishesTheResponse : Prop :=
  ∀ (s : State) (k : Nat) (n : Node) (now : Nat), s.nodes[k]? = some n → n.state = .doReceive →
    n.inBytes ≤ n.index →
    exec (.step k now) s = .next { s with
      nodes := s.nodes.set k { n with state := .waitTransmit }
      returns := s.returns ++ [.finished k true] }

/-- The frame of STEP: the decoder, the registry, the clock, every other node and every byte of every vector stay
(42_node_step_and_vectors.md section 1, 60_exceptions.md section 8). -/
def Obligations.StepTouchesOnlyItsNode : Prop :=
  ∀ (s t : State) (k : Nat) (now : Nat), exec (.step k now) s = .next t →
    t.dec = s.dec ∧ t.reg = s.reg ∧ t.clock = s.clock ∧ t.started = s.started ∧ t.inbox = s.inbox ∧
    (∀ j, j ≠ k → t.nodes[j]? = s.nodes[j]?) ∧
    (∀ j side i, t.readVec j side i = s.readVec j side i) ∧ ∃ r, t.returns = s.returns ++ [r]

/-- The receive path: the first `inBytes + 2` steps at or after the delay send TxBegin and then the input vector in index
order, and end in WaitTransmit with the report finished (42_node_step_and_vectors.md section 1). One action per step,
so that there are `inBytes + 2`, is decision D12 of the spec, the address in TxBegin decision D25 (log 14). -/
def Obligations.ReceivePathSendsTheInputVector : Prop :=
  ∀ (s : State) (k : Nat) (n : Node) (t0 : Nat) (ts : List Nat), s.nodes[k]? = some n → n.state = .waitDelay →
    n.delayStart + n.delay.toNat ≤ t0 → ts.length = n.inBytes + 1 →
    ∃ t n' rs, execAll ((t0 :: ts).map (.step k)) s = .next t ∧
      t.trace = s.trace ++ .txBegin k n.addr :: (List.range n.inBytes).map (fun i => .txByte k (s.readVec k .inp i)) ∧
      t.nodes[k]? = some n' ∧ n'.state = .waitTransmit ∧ n'.inVec = n.inVec ∧ n'.outVec = n.outVec ∧
      t.returns = rs ++ [.finished k true]

/-- The delay is a lower bound: a step of the machine that emits TxBegin runs a STEP of a node in WaitDelay whose delay has
elapsed (70_reset_and_hazards.md section 5). -/
def Obligations.ResponseNeverBeginsBeforeTheDelay : Prop :=
  ∀ (s t : State) (k : Nat) (a : Addr), step s = .next t → t.trace = s.trace ++ [.txBegin k a] →
    ∃ n now rest, s.inbox = .call (.step k now) :: rest ∧ s.nodes[k]? = some n ∧ n.addr = a ∧ n.state = .waitDelay ∧
      n.delayStart + n.delay.toNat ≤ now

/-- Steps of different nodes commute but for the order of their events and of their reports (60_exceptions.md section 8): the
events of each are those it emits alone, a report of a node in DoReceive is the same in both orders, and a drawn report,
being a free value (decision D13 of the spec, log 8), may differ. -/
def Obligations.StepsOfDifferentNodesCommute : Prop :=
  ∀ (s : State) (j k : Nat) (m n : Node) (tj tk : Nat), j ≠ k → s.nodes[j]? = some m → s.nodes[k]? = some n →
    ∃ a b u v es fs p q p' q',
      exec (.step j tj) s = .next a ∧ a.trace = s.trace ++ es ∧ exec (.step k tk) s = .next b ∧ b.trace = s.trace ++ fs ∧
      execAll [.step j tj, .step k tk] s = .next u ∧ execAll [.step k tk, .step j tj] s = .next v ∧
      u.nodes = v.nodes ∧ u.dec = v.dec ∧ u.reg = v.reg ∧ u.draws = v.draws ∧ u.clock = v.clock ∧
      u.started = v.started ∧ u.inbox = v.inbox ∧
      u.trace = s.trace ++ es ++ fs ∧ v.trace = s.trace ++ fs ++ es ∧
      u.returns = s.returns ++ [.finished j p, .finished k q] ∧
      v.returns = s.returns ++ [.finished k q', .finished j p'] ∧
      (m.state = .doReceive → p = p') ∧ (n.state = .doReceive → q = q')

/-! Vectors and application. -/

/-- R200, R202: a read returns the byte, or 0x00 at or past the byte count, and changes no state but the returned value. -/
def Obligations.VectorReadsReturnTheByteOrZero : Prop :=
  ∀ (s : State) (k : Nat) (n : Node) (i : Nat), s.nodes[k]? = some n →
    (i < n.inBytes → exec (.inRead k i) s = .next { s with returns := s.returns ++ [.value (n.inVec.read i)] }) ∧
    (n.inBytes ≤ i → exec (.inRead k i) s = .next { s with returns := s.returns ++ [.value 0x00#8] }) ∧
    (i < n.outBytes → exec (.outRead k i) s = .next { s with returns := s.returns ++ [.value (n.outVec.read i)] }) ∧
    (n.outBytes ≤ i → exec (.outRead k i) s = .next { s with returns := s.returns ++ [.value 0x00#8] })

/-- R201, R203: a write stores the byte below the byte count and is ignored at or past it; every other byte of every vector,
and everything else, stays. The premises on the vectors are an invariant, stated by InvariantIsKeptByEveryStep. -/
def Obligations.VectorWritesStoreOrAreIgnored : Prop :=
  ∀ (s : State) (k : Nat) (n : Node) (i : Nat) (v : Byte), s.nodes[k]? = some n → n.inVec.wf → n.outVec.wf →
    (i < n.inBytes → ∃ t n', exec (.inWrite k i v) s = .next t ∧ t = { s with nodes := s.nodes.set k n' } ∧
      { n' with inVec := n.inVec } = n ∧ t.readVec k .inp i = v ∧
      ∀ k' side j, ¬ (k' = k ∧ side = .inp ∧ j = i) → t.readVec k' side j = s.readVec k' side j) ∧
    (n.inBytes ≤ i → exec (.inWrite k i v) s = .next s) ∧
    (i < n.outBytes → ∃ t n', exec (.outWrite k i v) s = .next t ∧ t = { s with nodes := s.nodes.set k n' } ∧
      { n' with outVec := n.outVec } = n ∧ t.readVec k .out i = v ∧
      ∀ k' side j, ¬ (k' = k ∧ side = .out ∧ j = i) → t.readVec k' side j = s.readVec k' side j) ∧
    (n.outBytes ≤ i → exec (.outWrite k i v) s = .next s)

/-- The application writes the input vector and reads the output vector through the bounds-checked accessors
(42_node_step_and_vectors.md section 3, decision D18 of the spec). -/
def Obligations.ApplicationUsesTheAccessors : Prop :=
  ∀ (s : State) (k : Nat) (n : Node) (i : Nat) (v : Byte), s.nodes[k]? = some n → n.inVec.wf →
    (∃ t n', exec (.appWriteIn k i v) s = .next t ∧ t = { s with nodes := s.nodes.set k n' } ∧
      { n' with inVec := n.inVec } = n ∧ (i < n.inBytes → t.readVec k .inp i = v) ∧
      ∀ k' side j, ¬ (k' = k ∧ side = .inp ∧ j = i ∧ i < n.inBytes) → t.readVec k' side j = s.readVec k' side j) ∧
    exec (.appReadOut k i) s = .next { s with returns := s.returns ++ [.value (s.readVec k .out i)] }

/-- An operation that names a node no construction made is a fault (10_state.md section 2, where a NodeId is 0 .. NN-1; the
fault is the model's choice, log 12). -/
def Obligations.MissingNodesFault : Prop :=
  ∀ (s : State) (k i : Nat) (v : Byte) (now : Nat), s.nodes.length ≤ k →
    ∀ x ∈ [Instr.step k now, .inRead k i, .inWrite k i v, .outRead k i, .outWrite k i v, .appWriteIn k i v,
      .appReadOut k i, .register k], exec x s = .fault (.noSuchNode k)

/-! Construction and registry. -/

/-- CONSTRUCT of a configuration before operation adds the node under the next index with its descriptor's configuration and
the reset values, registers it and returns the result; the older nodes and everything else stay (43_registry.md,
10_state.md section 8; decisions D9, D16, D17, D19, D20 of the spec; bytes from bits, D11, log 14). -/
def Obligations.ConstructAddsARegisteredNode : Prop :=
  ∀ (s : State) (d : NodeDesc), d.addr < 128 → d.inInit.length = byteCount d.inBits →
    d.outInit.length = byteCount d.outBits → s.started = false →
    ∃ t n, exec (.construct d) s = .next t ∧ t.nodes = s.nodes ++ [n] ∧
      n.addr.val = d.addr ∧ n.typeId = d.typeId ∧ n.inBytes = (d.inBits + 7) / 8 ∧ n.outBytes = (d.outBits + 7) / 8 ∧
      n.routine = d.routine ∧ n.state = .waitInit ∧ n.index = 0 ∧ n.numSets = 0 ∧ n.delay = 0 ∧ n.delayStart = 0 ∧
      n.sub = d.subInit ∧
      (∀ i, t.readVec s.nodes.length .inp i = d.inInit.getD i 0x00#8) ∧
      (∀ i, t.readVec s.nodes.length .out i = d.outInit.getD i 0x00#8) ∧
      (s.reg.get n.addr = none → t.reg.get n.addr = some s.nodes.length ∧
        t.returns = s.returns ++ [.accepted s.nodes.length true]) ∧
      (s.reg.get n.addr ≠ none → t.reg = s.reg ∧ t.returns = s.returns ++ [.accepted s.nodes.length false]) ∧
      (∀ a, a ≠ n.addr → t.reg.get a = s.reg.get a) ∧
      t.dec = s.dec ∧ t.trace = s.trace ∧ t.draws = s.draws ∧ t.clock = s.clock ∧ t.started = s.started ∧
      t.inbox = s.inbox

/-- A descriptor with an address outside 0..127 or initial vectors of the wrong length, and a construction after a timed
transaction, are refused (43_registry.md, decision D19 of the spec; log 11, 18). -/
def Obligations.BadOrLateConstructionIsRefused : Prop :=
  ∀ (s : State) (d : NodeDesc),
    (128 ≤ d.addr → exec (.construct d) s = .refused (.input (.addressOutOfRange d.addr))) ∧
    (d.addr < 128 → d.inInit.length ≠ byteCount d.inBits ∨ d.outInit.length ≠ byteCount d.outBits →
      exec (.construct d) s = .refused (.input .initLengthMismatch)) ∧
    (d.problem = none → s.started = true → exec (.construct d) s = .refused .lateConstruction)

/-- REGISTER fills a free entry and leaves a taken one, returning which; nothing else changes (43_registry.md; the returned
Boolean is decision D20 of the spec). -/
def Obligations.RegisterKeepsTheFirstRegistrant : Prop :=
  ∀ (s : State) (k : Nat) (n : Node), s.nodes[k]? = some n →
    (s.reg.get n.addr = none → exec (.register k) s = .next { s with
      reg := s.reg.set n.addr.val (some k) n.addr.isLt, returns := s.returns ++ [.accepted k true] }) ∧
    (s.reg.get n.addr ≠ none → exec (.register k) s = .next { s with returns := s.returns ++ [.accepted k false] })

/-- R214: LOOKUP returns the registry entry, none too, and writes nothing. -/
def Obligations.LookupReturnsTheEntry : Prop :=
  ∀ (s : State) (a : Addr), exec (.lookup a) s = .next { s with returns := s.returns ++ [.found (s.reg.get a)] }

/-- No step removes or changes a registry entry, and once a timed transaction has run the registry is constant
(43_registry.md; that no construction follows one is decision D19 of the spec, `started` the model's, log 11). The premise
is an invariant, stated by InvariantIsKeptByEveryStep. -/
def Obligations.RegistryEntriesLiveForever : Prop :=
  ∀ (s t : State), step s = .next t →
    (∀ a k, s.reg.get a = some k → t.reg.get a = some k) ∧
    (FirstRegistrantWins s → s.started = true → t.reg = s.reg)

/-! Whole-machine rules. -/

/-- The invariant holds after reset (10_state.md section 8, 70_reset_and_hazards.md section 1). -/
def Obligations.InvariantHoldsAtReset : Prop := Inv State.reset

/-- Every step keeps the invariant: no node addressed in the header states, the registry holds first registrants only, the
addressed node is the registered one, inert nodes stay in WaitInit, vectors stay canonical and in bounds, counters stay in
range, no delay starts after the clock (10_state.md section 2, 43_registry.md, 41_node_automaton.md section 5). -/
def Obligations.InvariantIsKeptByEveryStep : Prop :=
  ∀ (s t : State), Inv s → step s = .next t → Inv t

/-- R36: no transaction writes a node's configuration, and no node is ever removed. -/
def Obligations.NodeConfigurationIsReadOnly : Prop :=
  ∀ (s t : State) (k : Nat) (n : Node), step s = .next t → s.nodes[k]? = some n →
    ∃ n', t.nodes[k]? = some n' ∧ SameConfig n n'

/-- No step returns a node to WaitInit (41_node_automaton.md section 5). -/
def Obligations.WaitInitIsNeverEnteredAgain : Prop :=
  ∀ (s t : State) (k : Nat) (n n' : Node), step s = .next t → s.nodes[k]? = some n → n.state ≠ .waitInit →
    t.nodes[k]? = some n' → n'.state ≠ .waitInit

/-- R227: an instruction that reports an error changes no node and nothing outside the decoder and the trace; a decoder error
also leaves `D.state` and `D.cur`, and only the counter advances. -/
def Obligations.ReportsChangeOnlyTheTrace : Prop :=
  ∀ (i : Instr) (s t : State), exec i s = .next t →
    (∀ kind l, t.trace = s.trace ++ [.decErr kind l] →
      t.nodes = s.nodes ∧ SameOutside s t ∧ t.dec = { s.dec with loc := s.dec.loc + 1 }) ∧
    (∀ kind k a, t.trace = s.trace ++ [.nodeErr kind k a] → t.nodes = s.nodes ∧ SameOutside s t)

/-- One step emits at most one event, and never an InternalError (60_exceptions.md sections 1 and 2 for the reports, decision
D27 of the spec; 42_node_step_and_vectors.md section 1 for the events to the host channel, decision D12; log 14). -/
def Obligations.StepEmitsAtMostOneEventAndNoInternalError : Prop :=
  ∀ (s t : State), step s = .next t → t.trace = s.trace ∨
    ∃ e, t.trace = s.trace ++ [e] ∧ (∀ l, e ≠ .decErr .internalError l) ∧ ∀ k a, e ≠ .nodeErr .internalError k a

/-- The registers of a node that will be written before they are read influence nothing: two states that agree but for them
stay so, with the same trace and the same returned values, under every instruction, and stop alike (10_state.md section 4). -/
def Obligations.DeadRegistersAreUnobservable : Prop :=
  ∀ (i : Instr) (s t : State), s.live = t.live →
    (∀ s', exec i s = .next s' → ∃ t', exec i t = .next t' ∧ s'.live = t'.live) ∧
    (∀ f, exec i s = .fault f → exec i t = .fault f) ∧
    (∀ r, exec i s = .refused r → exec i t = .refused r)

/-- The bytes of a valid frame, in WaitSync1, make exactly one control call, one feed per payload byte with the unstuffed
byte, and one endOfFrame, on the node registered at the address (on none if there is none), without a decoder error, and
leave the decoder as after reset (40_frame_decoder.md section 5). The values of 'P' and 'T' are presumed (log 20), the
discarded calls are decision D5 of the spec, the cleared decoder D3 and D6 (log 14). -/
def Obligations.ValidFrameMakesItsCalls : Prop :=
  ∀ (s : State) (a : Addr) (p : List Byte) (bs : List (Byte × Nat)) (now : Nat), s.dec.state = .waitSync1 →
    (bs.map Prod.fst = [0xFF#8, 0xFF#8, 0x02#8, byteOfAddr a, 0x49#8] ++ stuffAll p →
      execAll (consumes (bs ++ [(0x03#8, now)])) s = .next (endFrame (callCur (Node.endOfFrame now)
        (feedAll p (callCur Node.init (selectNode (s.reg.get a) s)))))) ∧
    (bs.map Prod.fst = [0xFF#8, 0xFF#8, 0x02#8, byteOfAddr a, 0x50#8] ++ stuffAll p →
      execAll (consumes (bs ++ [(0x03#8, now)])) s = .next (endFrame (callCur (Node.endOfFrame now)
        (feedAll p (callCur Node.poll (selectNode (s.reg.get a) s)))))) ∧
    (bs.map Prod.fst = [0xFF#8, 0xFF#8, 0x02#8, byteOfAddr a, 0x54#8] ++ stuffAll p →
      execAll (consumes (bs ++ [(0x03#8, now)])) s = .next (endFrame (callCur (Node.endOfFrame now)
        (feedAll p (callCur Node.transmit (selectNode (s.reg.get a) s))))))

/-- Escape round trip: in WaitData the stuffed payload delivers the payload byte for byte to the node and ends in WaitData
(40_frame_decoder.md section 5). -/
def Obligations.StuffedPayloadIsDelivered : Prop :=
  ∀ (s : State) (p : List Byte) (bs : List (Byte × Nat)), s.dec.state = .waitData → bs.map Prod.fst = stuffAll p →
    execAll (consumes bs) s = .next { feedAll p s with
      dec := { state := .waitData, loc := s.dec.loc + bs.length, cur := s.dec.cur } }

/-- Resynchronisation: from each header state `FF FF 02 A` brings the decoder to WaitType with the node registered at `A`,
with at most three reports and no node touched (40_frame_decoder.md section 5). -/
def Obligations.HeaderStatesResynchronise : Prop :=
  ∀ (s : State) (a : Addr) (t1 t2 t3 t4 : Nat),
    s.dec.state ∈ [.waitSync1, .waitSync2, .waitStx, .waitAddr] →
    ∃ t es, execAll (consumes [(0xFF#8, t1), (0xFF#8, t2), (0x02#8, t3), (byteOfAddr a, t4)]) s = .next t ∧
      t.dec = { state := .waitType, loc := s.dec.loc + 4, cur := s.reg.get a } ∧ t.nodes = s.nodes ∧
      t.trace = s.trace ++ es ∧ es.length ≤ 3

/-- Lost end byte: in WaitData a new header `FF FF 02` is three WrongChar reports, the decoder keeps its node, and the next
frame's address byte is fed to that node (70_reset_and_hazards.md section 4). The three reported positions are decision D3
of the spec (log 14). -/
def Obligations.HeaderInsideAPayloadIsNotRecognised : Prop :=
  ∀ (s : State) (a : Addr) (t1 t2 t3 t4 : Nat), s.dec.state = .waitData →
    ∃ u, exec (.feed (byteOfAddr a)) { s with
        dec := { state := .waitData, loc := s.dec.loc + 3, cur := s.dec.cur }
        trace := s.trace ++ [.decErr .wrongChar (s.dec.loc + 1), .decErr .wrongChar (s.dec.loc + 2),
          .decErr .wrongChar (s.dec.loc + 3)] } = .next u ∧
      execAll (consumes [(0xFF#8, t1), (0xFF#8, t2), (0x02#8, t3), (byteOfAddr a, t4)]) s =
        .next { u with dec := { state := .waitData, loc := s.dec.loc + 4, cur := s.dec.cur } }
end

