-- ==== Sys2Proof/Laws/State.lean ====
section
/-! SUPPORT. Every field of the state after every shared update: one lemma each, true by unfolding the update. -/
namespace Sys2Proof.Machine

@[simp] theorem emit_dec (e : Event) (s : State) : (emit e s).dec = s.dec := rfl
@[simp] theorem emit_nodes (e : Event) (s : State) : (emit e s).nodes = s.nodes := rfl
@[simp] theorem emit_reg (e : Event) (s : State) : (emit e s).reg = s.reg := rfl
@[simp] theorem emit_trace (e : Event) (s : State) : (emit e s).trace = s.trace ++ [e] := rfl
@[simp] theorem emit_returns (e : Event) (s : State) : (emit e s).returns = s.returns := rfl
@[simp] theorem emit_draws (e : Event) (s : State) : (emit e s).draws = s.draws := rfl
@[simp] theorem emit_clock (e : Event) (s : State) : (emit e s).clock = s.clock := rfl
@[simp] theorem emit_started (e : Event) (s : State) : (emit e s).started = s.started := rfl
@[simp] theorem emit_inbox (e : Event) (s : State) : (emit e s).inbox = s.inbox := rfl

@[simp] theorem report_dec (r : Return) (s : State) : (report r s).dec = s.dec := rfl
@[simp] theorem report_nodes (r : Return) (s : State) : (report r s).nodes = s.nodes := rfl
@[simp] theorem report_reg (r : Return) (s : State) : (report r s).reg = s.reg := rfl
@[simp] theorem report_trace (r : Return) (s : State) : (report r s).trace = s.trace := rfl
@[simp] theorem report_returns (r : Return) (s : State) : (report r s).returns = s.returns ++ [r] := rfl
@[simp] theorem report_draws (r : Return) (s : State) : (report r s).draws = s.draws := rfl
@[simp] theorem report_clock (r : Return) (s : State) : (report r s).clock = s.clock := rfl
@[simp] theorem report_started (r : Return) (s : State) : (report r s).started = s.started := rfl
@[simp] theorem report_inbox (r : Return) (s : State) : (report r s).inbox = s.inbox := rfl

@[simp] theorem setNode_dec (k : Nat) (n : Node) (s : State) : (setNode k n s).dec = s.dec := rfl
@[simp] theorem setNode_nodes (k : Nat) (n : Node) (s : State) : (setNode k n s).nodes = s.nodes.set k n := rfl
@[simp] theorem setNode_reg (k : Nat) (n : Node) (s : State) : (setNode k n s).reg = s.reg := rfl
@[simp] theorem setNode_trace (k : Nat) (n : Node) (s : State) : (setNode k n s).trace = s.trace := rfl
@[simp] theorem setNode_returns (k : Nat) (n : Node) (s : State) : (setNode k n s).returns = s.returns := rfl
@[simp] theorem setNode_draws (k : Nat) (n : Node) (s : State) : (setNode k n s).draws = s.draws := rfl
@[simp] theorem setNode_clock (k : Nat) (n : Node) (s : State) : (setNode k n s).clock = s.clock := rfl
@[simp] theorem setNode_started (k : Nat) (n : Node) (s : State) : (setNode k n s).started = s.started := rfl
@[simp] theorem setNode_inbox (k : Nat) (n : Node) (s : State) : (setNode k n s).inbox = s.inbox := rfl

@[simp] theorem addNode_dec (n : Node) (s : State) : (addNode n s).dec = s.dec := rfl
@[simp] theorem addNode_nodes (n : Node) (s : State) : (addNode n s).nodes = s.nodes ++ [n] := rfl
@[simp] theorem addNode_reg (n : Node) (s : State) : (addNode n s).reg = s.reg := rfl
@[simp] theorem addNode_trace (n : Node) (s : State) : (addNode n s).trace = s.trace := rfl
@[simp] theorem addNode_returns (n : Node) (s : State) : (addNode n s).returns = s.returns := rfl
@[simp] theorem addNode_draws (n : Node) (s : State) : (addNode n s).draws = s.draws := rfl
@[simp] theorem addNode_clock (n : Node) (s : State) : (addNode n s).clock = s.clock := rfl
@[simp] theorem addNode_started (n : Node) (s : State) : (addNode n s).started = s.started := rfl
@[simp] theorem addNode_inbox (n : Node) (s : State) : (addNode n s).inbox = s.inbox := rfl

@[simp] theorem drawFinished_dec (k : Nat) (s : State) : (drawFinished k s).dec = s.dec := rfl
@[simp] theorem drawFinished_nodes (k : Nat) (s : State) : (drawFinished k s).nodes = s.nodes := rfl
@[simp] theorem drawFinished_reg (k : Nat) (s : State) : (drawFinished k s).reg = s.reg := rfl
@[simp] theorem drawFinished_trace (k : Nat) (s : State) : (drawFinished k s).trace = s.trace := rfl
@[simp] theorem drawFinished_returns (k : Nat) (s : State) : (drawFinished k s).returns = s.returns ++ [.finished k (Config.stepReport s.draws)] := rfl
@[simp] theorem drawFinished_draws (k : Nat) (s : State) : (drawFinished k s).draws = s.draws + 1 := rfl
@[simp] theorem drawFinished_clock (k : Nat) (s : State) : (drawFinished k s).clock = s.clock := rfl
@[simp] theorem drawFinished_started (k : Nat) (s : State) : (drawFinished k s).started = s.started := rfl
@[simp] theorem drawFinished_inbox (k : Nat) (s : State) : (drawFinished k s).inbox = s.inbox := rfl

@[simp] theorem raiseDec_dec (kind : ErrorKind) (l : Nat) (s : State) : (raiseDec kind l s).dec = s.dec := rfl
@[simp] theorem raiseDec_nodes (kind : ErrorKind) (l : Nat) (s : State) : (raiseDec kind l s).nodes = s.nodes := rfl
@[simp] theorem raiseDec_reg (kind : ErrorKind) (l : Nat) (s : State) : (raiseDec kind l s).reg = s.reg := rfl
@[simp] theorem raiseDec_trace (kind : ErrorKind) (l : Nat) (s : State) : (raiseDec kind l s).trace = s.trace ++ [.decErr kind l] := rfl
@[simp] theorem raiseDec_returns (kind : ErrorKind) (l : Nat) (s : State) : (raiseDec kind l s).returns = s.returns := rfl
@[simp] theorem raiseDec_draws (kind : ErrorKind) (l : Nat) (s : State) : (raiseDec kind l s).draws = s.draws := rfl
@[simp] theorem raiseDec_clock (kind : ErrorKind) (l : Nat) (s : State) : (raiseDec kind l s).clock = s.clock := rfl
@[simp] theorem raiseDec_started (kind : ErrorKind) (l : Nat) (s : State) : (raiseDec kind l s).started = s.started := rfl
@[simp] theorem raiseDec_inbox (kind : ErrorKind) (l : Nat) (s : State) : (raiseDec kind l s).inbox = s.inbox := rfl

@[simp] theorem raiseNode_dec (kind : ErrorKind) (k : Nat) (n : Node) (s : State) : (raiseNode kind k n s).dec = s.dec := rfl
@[simp] theorem raiseNode_nodes (kind : ErrorKind) (k : Nat) (n : Node) (s : State) : (raiseNode kind k n s).nodes = s.nodes := rfl
@[simp] theorem raiseNode_reg (kind : ErrorKind) (k : Nat) (n : Node) (s : State) : (raiseNode kind k n s).reg = s.reg := rfl
@[simp] theorem raiseNode_trace (kind : ErrorKind) (k : Nat) (n : Node) (s : State) : (raiseNode kind k n s).trace = s.trace ++ [.nodeErr kind k n.addr] := rfl
@[simp] theorem raiseNode_returns (kind : ErrorKind) (k : Nat) (n : Node) (s : State) : (raiseNode kind k n s).returns = s.returns := rfl
@[simp] theorem raiseNode_draws (kind : ErrorKind) (k : Nat) (n : Node) (s : State) : (raiseNode kind k n s).draws = s.draws := rfl
@[simp] theorem raiseNode_clock (kind : ErrorKind) (k : Nat) (n : Node) (s : State) : (raiseNode kind k n s).clock = s.clock := rfl
@[simp] theorem raiseNode_started (kind : ErrorKind) (k : Nat) (n : Node) (s : State) : (raiseNode kind k n s).started = s.started := rfl
@[simp] theorem raiseNode_inbox (kind : ErrorKind) (k : Nat) (n : Node) (s : State) : (raiseNode kind k n s).inbox = s.inbox := rfl

@[simp] theorem accept_dec (q : DecState) (s : State) : (accept q s).dec = { state := q, loc := s.dec.loc + 1, cur := s.dec.cur } := rfl
@[simp] theorem accept_nodes (q : DecState) (s : State) : (accept q s).nodes = s.nodes := rfl
@[simp] theorem accept_reg (q : DecState) (s : State) : (accept q s).reg = s.reg := rfl
@[simp] theorem accept_trace (q : DecState) (s : State) : (accept q s).trace = s.trace := rfl
@[simp] theorem accept_returns (q : DecState) (s : State) : (accept q s).returns = s.returns := rfl
@[simp] theorem accept_draws (q : DecState) (s : State) : (accept q s).draws = s.draws := rfl
@[simp] theorem accept_clock (q : DecState) (s : State) : (accept q s).clock = s.clock := rfl
@[simp] theorem accept_started (q : DecState) (s : State) : (accept q s).started = s.started := rfl
@[simp] theorem accept_inbox (q : DecState) (s : State) : (accept q s).inbox = s.inbox := rfl

@[simp] theorem rejectByte_dec (kind : ErrorKind) (s : State) : (rejectByte kind s).dec = { s.dec with loc := s.dec.loc + 1 } := rfl
@[simp] theorem rejectByte_nodes (kind : ErrorKind) (s : State) : (rejectByte kind s).nodes = s.nodes := rfl
@[simp] theorem rejectByte_reg (kind : ErrorKind) (s : State) : (rejectByte kind s).reg = s.reg := rfl
@[simp] theorem rejectByte_trace (kind : ErrorKind) (s : State) : (rejectByte kind s).trace = s.trace ++ [.decErr kind (s.dec.loc + 1)] := rfl
@[simp] theorem rejectByte_returns (kind : ErrorKind) (s : State) : (rejectByte kind s).returns = s.returns := rfl
@[simp] theorem rejectByte_draws (kind : ErrorKind) (s : State) : (rejectByte kind s).draws = s.draws := rfl
@[simp] theorem rejectByte_clock (kind : ErrorKind) (s : State) : (rejectByte kind s).clock = s.clock := rfl
@[simp] theorem rejectByte_started (kind : ErrorKind) (s : State) : (rejectByte kind s).started = s.started := rfl
@[simp] theorem rejectByte_inbox (kind : ErrorKind) (s : State) : (rejectByte kind s).inbox = s.inbox := rfl

@[simp] theorem selectNode_dec (r : Option Nat) (s : State) : (selectNode r s).dec = { state := .waitType, loc := s.dec.loc + 1, cur := r } := rfl
@[simp] theorem selectNode_nodes (r : Option Nat) (s : State) : (selectNode r s).nodes = s.nodes := rfl
@[simp] theorem selectNode_reg (r : Option Nat) (s : State) : (selectNode r s).reg = s.reg := rfl
@[simp] theorem selectNode_trace (r : Option Nat) (s : State) : (selectNode r s).trace = s.trace := rfl
@[simp] theorem selectNode_returns (r : Option Nat) (s : State) : (selectNode r s).returns = s.returns := rfl
@[simp] theorem selectNode_draws (r : Option Nat) (s : State) : (selectNode r s).draws = s.draws := rfl
@[simp] theorem selectNode_clock (r : Option Nat) (s : State) : (selectNode r s).clock = s.clock := rfl
@[simp] theorem selectNode_started (r : Option Nat) (s : State) : (selectNode r s).started = s.started := rfl
@[simp] theorem selectNode_inbox (r : Option Nat) (s : State) : (selectNode r s).inbox = s.inbox := rfl

@[simp] theorem endFrame_dec (s : State) : (endFrame s).dec = { state := .waitSync1, loc := 0, cur := none } := rfl
@[simp] theorem endFrame_nodes (s : State) : (endFrame s).nodes = s.nodes := rfl
@[simp] theorem endFrame_reg (s : State) : (endFrame s).reg = s.reg := rfl
@[simp] theorem endFrame_trace (s : State) : (endFrame s).trace = s.trace := rfl
@[simp] theorem endFrame_returns (s : State) : (endFrame s).returns = s.returns := rfl
@[simp] theorem endFrame_draws (s : State) : (endFrame s).draws = s.draws := rfl
@[simp] theorem endFrame_clock (s : State) : (endFrame s).clock = s.clock := rfl
@[simp] theorem endFrame_started (s : State) : (endFrame s).started = s.started := rfl
@[simp] theorem endFrame_inbox (s : State) : (endFrame s).inbox = s.inbox := rfl

end Sys2Proof.Machine
end

