-- ==== Sys2Proof/Laws/Flags.lean ====
section
/-! SUPPORT. The conditions of the node rules as propositions. -/
namespace Sys2Proof.Machine

@[simp] theorem setsPending_iff (n : Node) : n.setsPending = true ↔ n.index < n.numSets.toNat := by
  simp [Node.setsPending]

@[simp] theorem setsComplete_iff (n : Node) : n.setsComplete = true ↔ n.index = n.numSets.toNat := by
  simp [Node.setsComplete]

@[simp] theorem delayElapsed_iff (n : Node) (now : Nat) :
    n.delayElapsed now = true ↔ n.delayStart + n.delay.toNat ≤ now := by
  simp [Node.delayElapsed]

@[simp] theorem sendPending_iff (n : Node) : n.sendPending = true ↔ n.index < n.inBytes := by
  simp [Node.sendPending]

end Sys2Proof.Machine
end

