-- ==== Sys2Proof/Laws/Memory.lean ====
section
/-! SUPPORT. The vector store: reading after writing, and that every operation keeps the canonical form and its bound. -/
namespace Sys2Proof.Machine

/-- The form of a list follows from that of its head and tail. -/
theorem Memory.wf_cons {a : Nat} {b : Byte} {t : Memory} :
    Memory.wf ((a, b) :: t) ↔ (∀ c ∈ t, a < c.1) ∧ b ≠ Config.unlisted ∧ Memory.wf t := by
  simp only [Memory.wf, List.pairwise_cons, List.mem_cons, forall_eq_or_imp]
  tauto

/-- Below every listed index a vector reads the unlisted byte. -/
theorem Memory.read_below {m : Memory} {i : Nat} (h : ∀ c ∈ m, i < c.1) : m.read i = Config.unlisted := by
  induction m with
  | nil => rfl
  | cons c t ih =>
    obtain ⟨a, b⟩ := c
    have ha : a ≠ i := by have := h (a, b) (by simp); simp only at this; omega
    simp only [Memory.read, if_neg ha]
    exact ih fun c hc => h c (List.mem_cons_of_mem _ hc)

/-- A cell of the written vector is the written one or an old one. -/
theorem Memory.mem_write {m : Memory} {i : Nat} {v : Byte} {c : Host.Cell} (h : c ∈ m.write i v) :
    c = (i, v) ∨ c ∈ m := by
  induction m with
  | nil => simp only [Memory.write] at h; split at h <;> simp_all
  | cons d t ih =>
    obtain ⟨a, b⟩ := d
    simp only [Memory.write] at h
    split at h
    · split at h <;> simp_all
    · split at h
      · split at h
        · exact .inr (List.mem_cons_of_mem _ h)
        · rcases List.mem_cons.1 h with h | h
          · exact .inl h
          · exact .inr (List.mem_cons_of_mem _ h)
      · rcases List.mem_cons.1 h with h | h
        · exact .inr (h ▸ List.mem_cons_self)
        · exact (ih h).imp id (List.mem_cons_of_mem _)

/-- A write keeps the canonical form. -/
theorem Memory.write_wf {m : Memory} (i : Nat) (v : Byte) (h : m.wf) : (m.write i v).wf := by
  induction m with
  | nil =>
    simp only [Memory.write]
    split
    · exact h
    · exact Memory.wf_cons.2 ⟨by simp, ‹_›, h⟩
  | cons c t ih =>
    obtain ⟨a, b⟩ := c
    obtain ⟨hlt, hb, ht⟩ := Memory.wf_cons.1 h
    simp only [Memory.write]
    split
    · split
      · exact h
      · refine Memory.wf_cons.2 ⟨?_, ‹_›, h⟩
        intro c hc
        rcases List.mem_cons.1 hc with rfl | hc
        · assumption
        · have := hlt c hc; omega
    · split
      · subst_vars
        split
        · exact ht
        · exact Memory.wf_cons.2 ⟨hlt, ‹_›, ht⟩
      · refine Memory.wf_cons.2 ⟨?_, hb, ih ht⟩
        intro c hc
        rcases Memory.mem_write hc with rfl | hc
        · simp only; omega
        · exact hlt c hc

/-- A write below the bound keeps every index below it. -/
theorem Memory.write_bound {m : Memory} {i N : Nat} (v : Byte) (hi : i < N) (h : ∀ c ∈ m, c.1 < N) :
    ∀ c ∈ m.write i v, c.1 < N := by
  intro c hc
  rcases Memory.mem_write hc with rfl | hc
  · exact hi
  · exact h c hc

/-- The written index reads the written byte. -/
theorem Memory.read_write_same {m : Memory} (i : Nat) (v : Byte) (h : m.wf) : (m.write i v).read i = v := by
  induction m with
  | nil => simp only [Memory.write]; split <;> simp_all [Memory.read]
  | cons c t ih =>
    obtain ⟨a, b⟩ := c
    obtain ⟨hlt, hb, ht⟩ := Memory.wf_cons.1 h
    simp only [Memory.write]
    split
    · split
      · subst_vars
        exact Memory.read_below fun c hc => by
          rcases List.mem_cons.1 hc with rfl | hc
          · assumption
          · have := hlt c hc; omega
      · simp [Memory.read]
    · split
      · subst_vars
        split
        · subst_vars; exact Memory.read_below hlt
        · simp [Memory.read]
      · have : a ≠ i := by omega
        simp only [Memory.read, if_neg this]
        exact ih ht

/-- Every other index reads as before. -/
theorem Memory.read_write_other {m : Memory} {i j : Nat} (v : Byte) (hij : j ≠ i) :
    (m.write i v).read j = m.read j := by
  induction m with
  | nil =>
    simp only [Memory.write]
    split
    · rfl
    · simp [Memory.read, hij.symm]
  | cons c t ih =>
    obtain ⟨a, b⟩ := c
    simp only [Memory.write]
    split
    · split
      · rfl
      · simp [Memory.read, hij.symm]
    · split
      · subst_vars
        split <;> simp [Memory.read, hij.symm]
      · simp only [Memory.read, ih]

/-- The cells of a packed array lie between its first index and its end, and hold no unlisted byte. -/
theorem Memory.mem_ofBytesFrom {bs : List Byte} {i : Nat} {c : Host.Cell} (h : c ∈ Memory.ofBytesFrom i bs) :
    i ≤ c.1 ∧ c.1 < i + bs.length ∧ c.2 ≠ Config.unlisted := by
  induction bs generalizing i with
  | nil => simp [Memory.ofBytesFrom] at h
  | cons b bs ih =>
    simp only [Memory.ofBytesFrom] at h
    simp only [List.length_cons]
    split at h
    · obtain ⟨h1, h2, h3⟩ := ih h
      exact ⟨by omega, by omega, h3⟩
    · rcases List.mem_cons.1 h with rfl | h
      · exact ⟨le_refl _, by simp only; omega, ‹_›⟩
      · obtain ⟨h1, h2, h3⟩ := ih h
        exact ⟨by omega, by omega, h3⟩

/-- A packed array is in canonical form. -/
theorem Memory.ofBytesFrom_wf (bs : List Byte) (i : Nat) : (Memory.ofBytesFrom i bs).wf := by
  induction bs generalizing i with
  | nil => simp [Memory.ofBytesFrom, Memory.wf]
  | cons b bs ih =>
    simp only [Memory.ofBytesFrom]
    split
    · exact ih _
    · refine Memory.wf_cons.2 ⟨fun c hc => ?_, ‹_›, ih _⟩
      have := (Memory.mem_ofBytesFrom hc).1
      omega

/-- A packed array reads back its bytes, and 0x00 past its end. -/
theorem Memory.read_ofBytesFrom (bs : List Byte) (i j : Nat) :
    (Memory.ofBytesFrom i bs).read (i + j) = bs.getD j 0x00#8 := by
  induction bs generalizing i j with
  | nil => simp [Memory.ofBytesFrom, Memory.read, Config.unlisted]
  | cons b bs ih =>
    simp only [Memory.ofBytesFrom]
    cases j with
    | zero =>
      simp only [Nat.add_zero, List.getD_cons_zero]
      split
      · subst_vars
        exact Memory.read_below fun c hc => by have := (Memory.mem_ofBytesFrom hc).1; omega
      · simp [Memory.read]
    | succ j =>
      have e : i + (j + 1) = i + 1 + j := by omega
      rw [e, List.getD_cons_succ]
      split
      · exact ih (i + 1) j
      · have : i ≠ i + 1 + j := by omega
        simp only [Memory.read, if_neg this]
        exact ih (i + 1) j

/-- The vectors of a node built from a configuration are canonical and in bounds. -/
theorem vectorsOk_ofDesc {d : NodeDesc} (hi : d.inInit.length = byteCount d.inBits)
    (ho : d.outInit.length = byteCount d.outBits) : VectorsOk (Node.ofDesc d) where
  inWf := Memory.ofBytesFrom_wf _ _
  outWf := Memory.ofBytesFrom_wf _ _
  inBound := fun c hc => by
    have := (Memory.mem_ofBytesFrom hc).2.1
    simp only [Node.ofDesc]; omega
  outBound := fun c hc => by
    have := (Memory.mem_ofBytesFrom hc).2.1
    simp only [Node.ofDesc]; omega

/-- The bounds-checked input write keeps the vectors' form. -/
theorem vectorsOk_inWrite {n : Node} (i : Nat) (v : Byte) (h : VectorsOk n) : VectorsOk (n.inWrite i v) := by
  unfold Node.inWrite
  split
  · exact ⟨Memory.write_wf _ _ h.inWf, h.outWf, Memory.write_bound v ‹_› h.inBound, h.outBound⟩
  · exact h

/-- The bounds-checked output write keeps the vectors' form. -/
theorem vectorsOk_outWrite {n : Node} (i : Nat) (v : Byte) (h : VectorsOk n) : VectorsOk (n.outWrite i v) := by
  unfold Node.outWrite
  split
  · exact ⟨h.inWf, Memory.write_wf _ _ h.outWf, h.inBound, Memory.write_bound v ‹_› h.outBound⟩
  · exact h

end Sys2Proof.Machine
end

