-- ==== Sys2Proof/Laws/Ops.lean ====
section
/-! SUPPORT. What each shared operation can do, said once. -/
namespace Sys2Proof.Machine

/-- A call of node `k` does nothing, sets node `k` to what the entry point answers, or reports its error. -/
theorem callNode_cases (k : Nat) (f : Node → Except ErrorKind Node) (s : State) :
    (s.nodes[k]? = none ∧ callNode k f s = s) ∨
    (∃ n n', s.nodes[k]? = some n ∧ f n = .ok n' ∧ callNode k f s = setNode k n' s) ∨
    (∃ n e, s.nodes[k]? = some n ∧ f n = .error e ∧ callNode k f s = raiseNode e k n s) := by
  unfold callNode
  cases hk : s.nodes[k]? with
  | none => exact .inl ⟨rfl, rfl⟩
  | some n =>
    cases hf : f n with
    | ok n' => exact .inr (.inl ⟨n, n', rfl, hf, by simp [hf]⟩)
    | error e => exact .inr (.inr ⟨n, e, rfl, hf, by simp [hf]⟩)

/-- A call of the current node does nothing, sets that node, or reports its error. -/
theorem callCur_cases (f : Node → Except ErrorKind Node) (s : State) :
    callCur f s = s ∨
    (∃ k n n', IsCur s k n ∧ f n = .ok n' ∧ callCur f s = setNode k n' s) ∨
    (∃ k n e, IsCur s k n ∧ f n = .error e ∧ callCur f s = raiseNode e k n s) := by
  unfold callCur
  cases hc : s.dec.cur with
  | none => exact .inl rfl
  | some k =>
    rcases callNode_cases k f s with ⟨_, h⟩ | ⟨n, n', hn, hf, h⟩ | ⟨n, e, hn, hf, h⟩
    · exact .inl h
    · exact .inr (.inl ⟨k, n, n', ⟨hc, hn⟩, hf, h⟩)
    · exact .inr (.inr ⟨k, n, e, ⟨hc, hn⟩, hf, h⟩)

/-- With a current node the call is the entry point's answer. -/
theorem callCur_eq {s : State} {k : Nat} {n : Node} (h : IsCur s k n) (f : Node → Except ErrorKind Node) :
    callCur f s = match f n with
      | .ok n' => setNode k n' s
      | .error e => raiseNode e k n s := by
  cases hf : f n <;> simp only [callCur, callNode, h.cur, h.node, hf]

/-- With no current node the call is discarded (R139). -/
theorem callCur_none {s : State} (h : s.dec.cur = none) (f : Node → Except ErrorKind Node) : callCur f s = s := by
  unfold callCur
  rw [h]

/-- A call leaves the decoder and everything outside nodes and trace. -/
theorem callCur_dec (f : Node → Except ErrorKind Node) (s : State) : (callCur f s).dec = s.dec := by
  rcases callCur_cases f s with h | ⟨k, n, n', _, _, h⟩ | ⟨k, n, e, _, _, h⟩ <;> rw [h] <;> rfl

theorem callCur_outside (f : Node → Except ErrorKind Node) (s : State) : SameOutside s (callCur f s) := by
  rcases callCur_cases f s with h | ⟨k, n, n', _, _, h⟩ | ⟨k, n, e, _, _, h⟩ <;> rw [h] <;> exact ⟨rfl, rfl, rfl, rfl, rfl, rfl⟩

/-- An operation on a node that exists runs; on one that does not it faults. -/
theorem withNode_some {k : Nat} {s : State} {n : Node} (h : s.nodes[k]? = some n) (f : Node → State) :
    withNode k s f = .next (f n) := by
  unfold withNode
  rw [h]

theorem withNode_none {k : Nat} {s : State} (h : s.nodes[k]? = none) (f : Node → State) :
    withNode k s f = .fault (.noSuchNode k) := by
  unfold withNode
  rw [h]

/-- An operation on a node answers a next state only for a node that exists. -/
theorem withNode_next {k : Nat} {s t : State} {f : Node → State} (h : withNode k s f = .next t) :
    ∃ n, s.nodes[k]? = some n ∧ t = f n := by
  cases hk : s.nodes[k]? with
  | none => rw [withNode_none hk] at h; cases h
  | some n => rw [withNode_some hk] at h; cases h; exact ⟨n, rfl, rfl⟩

/-- What one step of a node can do (R190 to R195). -/
theorem stepNode_cases (k : Nat) (now : Nat) (n : Node) (s : State) :
    (n.state = .waitDelay ∧ n.delayStart + n.delay.toNat ≤ now ∧ stepNode k now n s =
      drawFinished k (setNode k { n with index := 0, state := .doReceive } (emit (.txBegin k n.addr) s))) ∨
    (n.state = .doReceive ∧ n.index < n.inBytes ∧ stepNode k now n s =
      report (.finished k false) (setNode k { n with index := n.index + 1 } (emit (.txByte k (n.inRead n.index)) s))) ∨
    (n.state = .doReceive ∧ n.inBytes ≤ n.index ∧ stepNode k now n s =
      report (.finished k true) (setNode k { n with state := .waitTransmit } s)) ∨
    ((n.state = .waitDelay → now < n.delayStart + n.delay.toNat) ∧ n.state ≠ .doReceive ∧
      stepNode k now n s = drawFinished k s) := by
  unfold stepNode Node.delayElapsed Node.sendPending
  cases hs : n.state with
  | waitDelay =>
    by_cases h : n.delayStart + n.delay.toNat ≤ now
    · simp [h]
    · simp [h]; omega
  | doReceive =>
    by_cases h : n.index < n.inBytes
    · simp [h]
    · simp [h]; omega
  | waitInit => simp
  | waitNodeDefParam => simp
  | waitDelayHigh => simp
  | waitDelayLow => simp
  | waitNumSets => simp
  | doInit => simp
  | waitPoll => simp
  | waitEndPoll => simp
  | waitTransmit => simp
  | doTransmit => simp

/-- Registering fills a free entry or leaves the registry; either way it returns the result (R211). -/
theorem registerAt_cases (k : Nat) (a : Addr) (s : State) :
    (s.reg.get a = none ∧
      registerAt k a s = report (.accepted k true) { s with reg := s.reg.set a.val (some k) a.isLt }) ∨
    (s.reg.get a ≠ none ∧ registerAt k a s = report (.accepted k false) s) := by
  unfold registerAt regFree
  by_cases h : s.reg.get a = none <;> simp [h]

/-- CONSTRUCT answers a next state only for a configuration before operation (R210, R215, D19). -/
theorem execConstruct_next {d : NodeDesc} {s t : State} (h : execConstruct d s = .next t) :
    d.problem = none ∧ s.started = false ∧
      t = registerAt s.nodes.length (Node.ofDesc d).addr (addNode (Node.ofDesc d) s) := by
  unfold execConstruct at h
  cases hp : d.problem with
  | some r => rw [hp] at h; cases h
  | none =>
    rw [hp] at h
    cases hs : s.started with
    | true => simp [hs] at h
    | false => simp only [hs, Bool.false_eq_true, if_false, Host.Outcome.next.injEq] at h; exact ⟨rfl, rfl, h.symm⟩

/-- A descriptor with no problem has an address and vectors as R9 asks. -/
theorem problem_none {d : NodeDesc} (h : d.problem = none) :
    d.addr < 128 ∧ d.inInit.length = byteCount d.inBits ∧ d.outInit.length = byteCount d.outBits := by
  unfold NodeDesc.problem at h
  split at h
  · cases h
  · split at h
    · rename_i h1 h2; simp only [Bool.and_eq_true, decide_eq_true_eq] at h2; exact ⟨by omega, h2⟩
    · cases h

/-- An entry of the registry after one is set. -/
theorem reg_get_set (r : Vector (Option Nat) 128) (a b : Addr) (x : Option Nat) :
    (r.set a.val x a.isLt).get b = if b = a then x else r.get b := by
  show (r.set a.val x a.isLt)[b.val] = if b = a then x else r[b.val]
  rw [Vector.getElem_set]
  by_cases h : b = a
  · subst h; simp
  · have : ¬ a.val = b.val := fun e => h (Fin.ext e.symm)
    simp [h, this]

end Sys2Proof.Machine
end

