-- ==== Sys2Proof/Laws/Decode.lean ====
section
/-! SUPPORT. The address field of the wire encoding. -/
namespace Sys2Proof

/-- The address byte of `a` is `a + 65`, which fits a byte. -/
theorem byteOfAddr_toNat (a : Addr) : (byteOfAddr a).toNat = a.val + 65 := by
  have := a.isLt
  simp only [byteOfAddr, BitVec.toNat_ofNat]
  omega

/-- The address byte of an address is an address byte, and reads back as it (R94). -/
theorem isAddrByte_byteOfAddr (a : Addr) : isAddrByte (byteOfAddr a) = true := by
  have := a.isLt
  simp only [isAddrByte, byteOfAddr_toNat, Bool.and_eq_true, decide_eq_true_eq]
  omega

theorem addrOfByte_byteOfAddr (a : Addr) : addrOfByte (byteOfAddr a) = a := by
  apply Fin.ext
  have := a.isLt
  simp only [addrOfByte, byteOfAddr_toNat, Fin.ofNat, Nat.add_sub_cancel]
  omega

/-- The address an address byte reads as is `b - 65`, whose address byte it is (R94). -/
theorem addrOfByte_val {b : Byte} (h : isAddrByte b = true) : (addrOfByte b).val = b.toNat - 65 := by
  simp only [isAddrByte, Bool.and_eq_true, decide_eq_true_eq] at h
  simp only [addrOfByte, Fin.ofNat]
  omega

theorem byteOfAddr_addrOfByte {b : Byte} (h : isAddrByte b = true) : byteOfAddr (addrOfByte b) = b := by
  apply BitVec.eq_of_toNat_eq
  rw [byteOfAddr_toNat, addrOfByte_val h]
  simp only [isAddrByte, Bool.and_eq_true, decide_eq_true_eq] at h
  omega

/-- The byte classes as propositions (R92, R94, R95). -/
@[simp] theorem isCtrl_iff (b : Byte) : isCtrl b = true ↔ b = 0x10#8 ∨ b = 0x03#8 ∨ b = 0xFF#8 ∨ b = 0x02#8 := by
  simp only [isCtrl, Bool.or_eq_true, decide_eq_true_eq, or_assoc]

@[simp] theorem isAddrByte_iff (b : Byte) : isAddrByte b = true ↔ 0x41 ≤ b.toNat ∧ b.toNat ≤ 0xC0 := by
  simp only [isAddrByte, Bool.and_eq_true, decide_eq_true_eq]

@[simp] theorem isTypeByte_iff (b : Byte) : isTypeByte b = true ↔ b = 0x49#8 ∨ b = 0x50#8 ∨ b = 0x54#8 := by
  simp only [isTypeByte, Bool.or_eq_true, decide_eq_true_eq, or_assoc]

/-- No address byte is a control byte, so an address byte inside a payload is data (R262). -/
theorem not_isCtrl_byteOfAddr (a : Addr) : ¬ isCtrl (byteOfAddr a) = true := by
  have h := byteOfAddr_toNat a
  have := a.isLt
  rw [isCtrl_iff]
  rintro (e | e | e | e) <;> (rw [e, BitVec.toNat_ofNat] at h; omega)

end Sys2Proof
end

