-- ==== Sys2Proof/Laws/Step.lean ====
section
/-! SUPPORT. What one step of the machine can do, said once. -/
namespace Sys2Proof.Machine

/-- The effect of starting a transaction at a state without its input. -/
theorem startTransaction_cases (i : Instr) (s : State) :
    (timeOf i = none ∧ startTransaction i s = s) ∨
    (∃ now, timeOf i = some now ∧ startTransaction i s = { s with clock := now, started := true }) := by
  unfold startTransaction
  cases h : timeOf i with
  | none => exact .inl ⟨rfl, rfl⟩
  | some now => exact .inr ⟨now, rfl, rfl⟩

/-- A step that answers a next state was idle, or ran `exec` of the decoded instruction on time. -/
theorem step_next_cases {s t : State} (h : step s = .next t) :
    (s.inbox = [] ∧ t = s) ∨
    (∃ x rest i, s.inbox = x :: rest ∧ decode s.dec.state x = .ok i ∧
      ((timeOf i = none ∧ exec i { s with inbox := rest } = .next t) ∨
        ∃ now, timeOf i = some now ∧ s.clock ≤ now ∧
          exec i { s with inbox := rest, clock := now, started := true } = .next t)) := by
  unfold step fetch at h
  cases hb : s.inbox with
  | nil => rw [hb] at h; cases h; exact .inl ⟨rfl, rfl⟩
  | cons x rest =>
    rw [hb] at h
    simp only at h
    cases hd : decode s.dec.state x with
    | error r => rw [hd] at h; cases h
    | ok i =>
      rw [hd] at h
      refine .inr ⟨x, rest, i, rfl, hd, ?_⟩
      unfold checkClock startTransaction at h
      cases ht : timeOf i with
      | none => simp only [ht] at h; exact .inl ⟨rfl, h⟩
      | some now =>
        simp only [ht] at h
        by_cases hlt : now < s.clock
        · simp [hlt] at h
        · simp only [hlt, if_false] at h; exact .inr ⟨now, rfl, by omega, h⟩

end Sys2Proof.Machine
end

