-- ==== Sys2Proof/Laws/PerInstr.lean ====
section
/-! SUPPORT. Facts made per instruction: the time an instruction carries is the time its input carries. -/
namespace Sys2Proof.Laws

/-- The time of an input: the time of a wire byte, or the `now` operand of a call (R11). -/
def inputTime : Input → Option Nat
  | .byte _ now => some now
  | .call (.consume _ now) => some now
  | .call (.endOfFrame now) => some now
  | .call (.step _ now) => some now
  | .call _ => none
  | .reenter _ => none
  | .attachDecoder => none

/-- The encoding of an instruction carries the instruction's time. -/
def InputTime.Statement (i : Instr) : Prop := inputTime (encode i) = timeOf i

theorem InputTime.sync1 (now : Nat) : InputTime.Statement (.sync1 now) := rfl
theorem InputTime.sync1Err (b : Byte) (now : Nat) : InputTime.Statement (.sync1Err b now) := rfl
theorem InputTime.sync2 (now : Nat) : InputTime.Statement (.sync2 now) := rfl
theorem InputTime.sync2Err (b : Byte) (now : Nat) : InputTime.Statement (.sync2Err b now) := rfl
theorem InputTime.stx (now : Nat) : InputTime.Statement (.stx now) := rfl
theorem InputTime.stxErr (b : Byte) (now : Nat) : InputTime.Statement (.stxErr b now) := rfl
theorem InputTime.addr (a : Addr) (now : Nat) : InputTime.Statement (.addr a now) := rfl
theorem InputTime.addrErr (b : Byte) (now : Nat) : InputTime.Statement (.addrErr b now) := rfl
theorem InputTime.typeInit (now : Nat) : InputTime.Statement (.typeInit now) := rfl
theorem InputTime.typePoll (now : Nat) : InputTime.Statement (.typePoll now) := rfl
theorem InputTime.typeTransmit (now : Nat) : InputTime.Statement (.typeTransmit now) := rfl
theorem InputTime.typeErr (b : Byte) (now : Nat) : InputTime.Statement (.typeErr b now) := rfl
theorem InputTime.dataEsc (now : Nat) : InputTime.Statement (.dataEsc now) := rfl
theorem InputTime.dataEtx (now : Nat) : InputTime.Statement (.dataEtx now) := rfl
theorem InputTime.dataCtrlErr (b : Byte) (now : Nat) : InputTime.Statement (.dataCtrlErr b now) := rfl
theorem InputTime.dataByte (b : Byte) (now : Nat) : InputTime.Statement (.dataByte b now) := rfl
theorem InputTime.rawCtrl (b : Byte) (now : Nat) : InputTime.Statement (.rawCtrl b now) := rfl
theorem InputTime.rawErr (b : Byte) (now : Nat) : InputTime.Statement (.rawErr b now) := rfl
theorem InputTime.consume (b : Byte) (now : Nat) : InputTime.Statement (.consume b now) := rfl
theorem InputTime.init : InputTime.Statement (.init) := rfl
theorem InputTime.poll : InputTime.Statement (.poll) := rfl
theorem InputTime.transmit : InputTime.Statement (.transmit) := rfl
theorem InputTime.feed (b : Byte) : InputTime.Statement (.feed b) := rfl
theorem InputTime.endOfFrame (now : Nat) : InputTime.Statement (.endOfFrame now) := rfl
theorem InputTime.step (k : Nat) (now : Nat) : InputTime.Statement (.step k now) := rfl
theorem InputTime.inRead (k : Nat) (i : Nat) : InputTime.Statement (.inRead k i) := rfl
theorem InputTime.inWrite (k : Nat) (i : Nat) (v : Byte) : InputTime.Statement (.inWrite k i v) := rfl
theorem InputTime.outRead (k : Nat) (i : Nat) : InputTime.Statement (.outRead k i) := rfl
theorem InputTime.outWrite (k : Nat) (i : Nat) (v : Byte) : InputTime.Statement (.outWrite k i v) := rfl
theorem InputTime.appWriteIn (k : Nat) (i : Nat) (v : Byte) : InputTime.Statement (.appWriteIn k i v) := rfl
theorem InputTime.appReadOut (k : Nat) (i : Nat) : InputTime.Statement (.appReadOut k i) := rfl
theorem InputTime.construct (d : NodeDesc) : InputTime.Statement (.construct d) := rfl
theorem InputTime.register (k : Nat) : InputTime.Statement (.register k) := rfl
theorem InputTime.lookup (a : Addr) : InputTime.Statement (.lookup a) := rfl

end Sys2Proof.Laws
end

