-- ==== Sys2Proof/Laws/Run.lean ====
section
/-! SUPPORT. Sequences of instructions. -/
namespace Sys2Proof.Machine

/-- An instruction that answers a next state hands it to the rest. -/
theorem execAll_cons {i : Instr} {is : List Instr} {s s' : State} (h : exec i s = .next s') :
    execAll (i :: is) s = execAll is s' := by
  simp only [execAll, h]

/-- A sequence that answers a next state hands it to the sequence after it. -/
theorem execAll_append {is js : List Instr} {s s' : State} (h : execAll is s = .next s') :
    execAll (is ++ js) s = execAll js s' := by
  induction is generalizing s with
  | nil => cases h; rfl
  | cons i is ih =>
    simp only [List.cons_append, execAll] at h ⊢
    cases hi : exec i s with
    | next u => rw [hi] at h; simp only at h ⊢; exact ih h
    | fault r => rw [hi] at h; cases h
    | refused r => rw [hi] at h; cases h

/-- A sequence of CONSUMEs is the fold of `consume`. -/
theorem execAll_consumes (bs : List (Byte × Nat)) (s : State) :
    execAll (consumes bs) s = .next (bs.foldl (fun s p => consume p.1 p.2 s) s) := by
  induction bs generalizing s with
  | nil => rfl
  | cons p bs ih => exact ih (consume p.1 p.2 s)

end Sys2Proof.Machine
end

