-- ==== Sys2Proof/Tests/Slice0.lean ====
section
/-! SUPPORT. The model's own tests. Expected results are the spec's (95_test_vectors.md, cited by the ids DV, NV, SV, AV, RV,
W) or written out from its encoding tables. The `witness_` theorems show, for each obligation with hypotheses, concrete data
that meet them together, clause by clause. -/
namespace Sys2Proof.Tests
open Sys2Proof.Machine

/-! Helpers. -/

/-- The node of CFG-A in protocol state `q`, with `inVec = [A5, 01]` and `outVec = [12, 03]`. -/
def nodeA (q : NodeState) : Node where
  addr := 0
  typeId := 0x4D#8
  inBytes := 2
  outBytes := 2
  routine := .append
  state := q
  index := 0
  numSets := 0
  delay := 0
  delayStart := 0
  sub := []
  inVec := [(0, 0xA5#8), (1, 0x01#8)]
  outVec := [(0, 0x12#8), (1, 0x03#8)]

/-- CFG-A after construction, with decoder `d` and node 0 as given. -/
def bus (d : Dec) (n : Node) : State :=
  { State.reset with dec := d, nodes := [n], reg := (Vector.replicate 128 none).set 0 (some 0) }

/-- The bus with node 0 addressed by the frame in progress. -/
def called (n : Node) : State := bus ⟨.waitData, 5, some 0⟩ n

/-- The next state, if there is one. -/
def nextOf : Result → Option State
  | .next s => some s
  | .fault _ => none
  | .refused _ => none

/-- Decoder and trace after a step that consumes byte `b`. -/
def afterByte (b : Byte) (d : Dec) (n : Node) : Option (Dec × List Event) :=
  (nextOf (step { bus d n with inbox := [.byte b 0] })).map fun t => (t.dec, t.trace)

/-- Nodes and trace after a step that calls `c` with node 0 addressed. -/
def afterCall (c : Call) (n : Node) : Option (List Node × List Event) :=
  (nextOf (step { called n with inbox := [.call c] })).map fun t => (t.nodes, t.trace)

/-- Nodes and returned values after a step that calls `c`. -/
def afterAccess (c : Call) (n : Node) : Option (List Node × List Return) :=
  (nextOf (step { called n with inbox := [.call c] })).map fun t => (t.nodes, t.returns)

/-- The descriptor of CFG-A with address `a`. -/
def descA (a : Nat) : NodeDesc where
  addr := a
  typeId := 0x4D#8
  inBits := 16
  outBits := 16
  routine := .append
  subInit := []
  inInit := [0x00#8, 0x00#8]
  outInit := [0x00#8, 0x00#8]

/-! WellFormed refuses one ill-formed term for each check. -/

theorem test_illformed_sync1Err : ¬ WellFormed (.sync1Err 0xFF#8 0) := by decide
theorem test_illformed_sync2Err : ¬ WellFormed (.sync2Err 0xFF#8 0) := by decide
theorem test_illformed_stxErr : ¬ WellFormed (.stxErr 0x02#8 0) := by decide
theorem test_illformed_addrErr : ¬ WellFormed (.addrErr 0x41#8 0) ∧ ¬ WellFormed (.addrErr 0xC0#8 0) := by decide
theorem test_illformed_typeErr : ¬ WellFormed (.typeErr 0x49#8 0) ∧ ¬ WellFormed (.typeErr 0x54#8 0) := by decide
theorem test_illformed_dataCtrlErr : ¬ WellFormed (.dataCtrlErr 0x10#8 0) := by decide
theorem test_illformed_dataByte : ¬ WellFormed (.dataByte 0x03#8 0) := by decide
theorem test_illformed_rawCtrl : ¬ WellFormed (.rawCtrl 0x41#8 0) := by decide
theorem test_illformed_rawErr : ¬ WellFormed (.rawErr 0x03#8 0) := by decide
theorem test_illformed_construct_address : ¬ WellFormed (.construct (descA 128)) := by decide
theorem test_illformed_construct_length :
    ¬ WellFormed (.construct { descA 0 with inInit := [0x00#8] }) ∧
    ¬ WellFormed (.construct { descA 0 with outInit := [] }) := by decide

/-! Every constructor's decoding, the bytes written out from 30_encoding.md section 5. -/

theorem test_decode_waitSync1 :
    decode .waitSync1 (.byte 0b11111111#8 7) = .ok (.sync1 7) ∧
    decode .waitSync1 (.byte 0b00000010#8 7) = .ok (.sync1Err 0x02#8 7) := by decide
theorem test_decode_waitSync2 :
    decode .waitSync2 (.byte 0b11111111#8 7) = .ok (.sync2 7) ∧
    decode .waitSync2 (.byte 0b11111110#8 7) = .ok (.sync2Err 0xFE#8 7) := by decide
theorem test_decode_waitStx :
    decode .waitStx (.byte 0b00000010#8 7) = .ok (.stx 7) ∧
    decode .waitStx (.byte 0b11111111#8 7) = .ok (.stxErr 0xFF#8 7) := by decide
theorem test_decode_waitAddr :
    decode .waitAddr (.byte 0b01000001#8 7) = .ok (.addr 0 7) ∧
    decode .waitAddr (.byte 0b11000000#8 7) = .ok (.addr 127 7) ∧
    decode .waitAddr (.byte 0b01000000#8 7) = .ok (.addrErr 0x40#8 7) ∧
    decode .waitAddr (.byte 0b11000001#8 7) = .ok (.addrErr 0xC1#8 7) := by decide
theorem test_decode_waitType :
    decode .waitType (.byte 0b01001001#8 7) = .ok (.typeInit 7) ∧
    decode .waitType (.byte 0b01010000#8 7) = .ok (.typePoll 7) ∧
    decode .waitType (.byte 0b01010100#8 7) = .ok (.typeTransmit 7) ∧
    decode .waitType (.byte 0b01010010#8 7) = .ok (.typeErr 0x52#8 7) := by decide
theorem test_decode_waitData :
    decode .waitData (.byte 0b00010000#8 7) = .ok (.dataEsc 7) ∧
    decode .waitData (.byte 0b00000011#8 7) = .ok (.dataEtx 7) ∧
    decode .waitData (.byte 0b11111111#8 7) = .ok (.dataCtrlErr 0xFF#8 7) ∧
    decode .waitData (.byte 0b00000010#8 7) = .ok (.dataCtrlErr 0x02#8 7) ∧
    decode .waitData (.byte 0b01001001#8 7) = .ok (.dataByte 0x49#8 7) := by decide
theorem test_decode_waitRawData :
    decode .waitRawData (.byte 0b00010000#8 7) = .ok (.rawCtrl 0x10#8 7) ∧
    decode .waitRawData (.byte 0b00000011#8 7) = .ok (.rawCtrl 0x03#8 7) ∧
    decode .waitRawData (.byte 0b11111111#8 7) = .ok (.rawCtrl 0xFF#8 7) ∧
    decode .waitRawData (.byte 0b00000010#8 7) = .ok (.rawCtrl 0x02#8 7) ∧
    decode .waitRawData (.byte 0b01000001#8 7) = .ok (.rawErr 0x41#8 7) := by decide
theorem test_decode_entry_calls :
    decode .waitSync1 (.call (.consume 0x41#8 7)) = .ok (.consume 0x41#8 7) ∧
    decode .waitSync1 (.call .init) = .ok .init ∧
    decode .waitSync1 (.call .poll) = .ok .poll ∧
    decode .waitSync1 (.call .transmit) = .ok .transmit ∧
    decode .waitSync1 (.call (.feed 0x03#8)) = .ok (.feed 0x03#8) ∧
    decode .waitSync1 (.call (.endOfFrame 7)) = .ok (.endOfFrame 7) ∧
    decode .waitSync1 (.call (.step 2 7)) = .ok (.step 2 7) := by decide
theorem test_decode_access_calls :
    decode .waitType (.call (.inRead 1 2)) = .ok (.inRead 1 2) ∧
    decode .waitType (.call (.inWrite 1 2 0x5A#8)) = .ok (.inWrite 1 2 0x5A#8) ∧
    decode .waitType (.call (.outRead 1 2)) = .ok (.outRead 1 2) ∧
    decode .waitType (.call (.outWrite 1 2 0x5A#8)) = .ok (.outWrite 1 2 0x5A#8) ∧
    decode .waitType (.call (.appWriteIn 1 2 0x5A#8)) = .ok (.appWriteIn 1 2 0x5A#8) ∧
    decode .waitType (.call (.appReadOut 1 2)) = .ok (.appReadOut 1 2) := by decide
theorem test_decode_registry_calls :
    decode .waitData (.call (.construct (descA 127))) = .ok (.construct (descA 127)) ∧
    decode .waitData (.call (.register 1)) = .ok (.register 1) ∧
    decode .waitData (.call (.lookup 5)) = .ok (.lookup 5) := by decide
theorem test_decode_rejects_by_name :
    decode .waitSync1 (.call (.construct (descA 128))) = .error (.addressOutOfRange 128) ∧
    decode .waitSync1 (.call (.construct { descA 0 with inInit := [] })) = .error .initLengthMismatch ∧
    decode .waitSync1 (.reenter .poll) = .error .reentrantCall ∧
    decode .waitSync1 .attachDecoder = .error .secondDecoder := by decide

/-- W5: the stuffing of `FF 02 03 10 41`. -/
theorem test_stuffing :
    stuffAll [0xFF#8, 0x02#8, 0x03#8, 0x10#8, 0x41#8] =
      [0x10#8, 0xFF#8, 0x10#8, 0x02#8, 0x10#8, 0x03#8, 0x10#8, 0x10#8, 0x41#8] := by decide
/-- W7: `FRAME(0, 0x54, [03, 10])`. -/
theorem test_frame :
    frame 0 0x54#8 [0x03#8, 0x10#8] =
      [0xFF#8, 0xFF#8, 0x02#8, 0x41#8, 0x54#8, 0x10#8, 0x03#8, 0x10#8, 0x10#8, 0x03#8] := by decide
/-- AV11, AV12: bytes of 9 and of 0 bits. -/
theorem test_byteCount : byteCount 9 = 2 ∧ byteCount 8 = 1 ∧ byteCount 0 = 0 := by decide

/-! The numbering of states and errors (R31, R37, R221). -/

theorem test_codes :
    decCode .waitSync1 = 0 ∧ decCode .waitRawData = 6 ∧ nodeCode .waitInit = 0 ∧ nodeCode .doTransmit = 11 ∧
    errorCode .wrongChar = 0 ∧ errorCode .initError = 5 := by decide

/-! Table words from reset (log 4). -/

theorem test_table_words :
    decodeTableWord 8 0xFF = some (.sync1 0) ∧ decodeTableWord 8 0x02 = some (.stx 0) ∧
    decodeTableWord 8 0x49 = some (.typeInit 0) ∧ decodeTableWord 8 0x50 = some (.typePoll 0) ∧
    decodeTableWord 8 0x54 = some (.typeTransmit 0) ∧ decodeTableWord 8 0x10 = some (.dataEsc 0) ∧
    decodeTableWord 8 0x03 = some (.dataEtx 0) ∧ decodeTableWord 8 0x41 = some (.addr 0 0) ∧
    decodeTableWord 8 0x00 = some (.sync1Err 0x00#8 0) ∧ decodeTableWord 16 0xFF = none := by decide
theorem test_table_word_runs :
    (nextOf (step (State.reset.withFetchWord 8 0xFF))).map State.dec = some ⟨.waitSync2, 1, none⟩ := by decide

/-! The decoder rows, one step each (DV vectors of section 2.1). -/

theorem test_sync1 : afterByte 0xFF#8 ⟨.waitSync1, 0, none⟩ (nodeA .waitInit) = some (⟨.waitSync2, 1, none⟩, []) := by decide
theorem test_sync1Err : afterByte 0x03#8 ⟨.waitSync1, 4, none⟩ (nodeA .waitInit) =
    some (⟨.waitSync1, 5, none⟩, [.decErr .wrongChar 5]) := by decide
theorem test_sync2 : afterByte 0xFF#8 ⟨.waitSync2, 1, none⟩ (nodeA .waitInit) = some (⟨.waitStx, 2, none⟩, []) := by decide
theorem test_sync2Err : afterByte 0x02#8 ⟨.waitSync2, 1, none⟩ (nodeA .waitInit) =
    some (⟨.waitSync2, 2, none⟩, [.decErr .wrongChar 2]) := by decide
theorem test_stx : afterByte 0x02#8 ⟨.waitStx, 2, none⟩ (nodeA .waitInit) = some (⟨.waitAddr, 3, none⟩, []) := by decide
theorem test_stxErr : afterByte 0xFF#8 ⟨.waitStx, 2, none⟩ (nodeA .waitInit) =
    some (⟨.waitStx, 3, none⟩, [.decErr .wrongChar 3]) := by decide
theorem test_addr_registered : afterByte 0x41#8 ⟨.waitAddr, 3, none⟩ (nodeA .waitInit) =
    some (⟨.waitType, 4, some 0⟩, []) := by decide
theorem test_addr_absent : afterByte 0xC0#8 ⟨.waitAddr, 3, none⟩ (nodeA .waitInit) =
    some (⟨.waitType, 4, none⟩, []) := by decide
theorem test_addrErr_low : afterByte 0x40#8 ⟨.waitAddr, 3, none⟩ (nodeA .waitInit) =
    some (⟨.waitAddr, 4, none⟩, [.decErr .wrongAddress 4]) := by decide
theorem test_addrErr_high : afterByte 0xC1#8 ⟨.waitAddr, 3, none⟩ (nodeA .waitInit) =
    some (⟨.waitAddr, 4, none⟩, [.decErr .wrongAddress 4]) := by decide
theorem test_typeInit : afterByte 0x49#8 ⟨.waitType, 4, some 0⟩ (nodeA .waitInit) =
    some (⟨.waitData, 5, some 0⟩, []) := by decide
theorem test_typeInit_absent : afterByte 0x49#8 ⟨.waitType, 4, none⟩ (nodeA .waitInit) =
    some (⟨.waitData, 5, none⟩, []) := by decide
theorem test_typePoll : afterByte 0x50#8 ⟨.waitType, 4, some 0⟩ (nodeA .waitTransmit) =
    some (⟨.waitData, 5, some 0⟩, [.nodeErr .protocolError 0 0]) := by decide
theorem test_typeTransmit : afterByte 0x54#8 ⟨.waitType, 4, some 0⟩ (nodeA .waitTransmit) =
    some (⟨.waitData, 5, some 0⟩, []) := by decide
theorem test_typeErr : afterByte 0x52#8 ⟨.waitType, 4, some 0⟩ (nodeA .waitInit) =
    some (⟨.waitType, 5, some 0⟩, [.decErr .wrongType 5]) := by decide
theorem test_dataEsc : afterByte 0x10#8 ⟨.waitData, 5, some 0⟩ (nodeA .doTransmit) =
    some (⟨.waitRawData, 6, some 0⟩, []) := by decide
theorem test_dataEtx : afterByte 0x03#8 ⟨.waitData, 5, some 0⟩ (nodeA .doTransmit) =
    some (⟨.waitSync1, 0, none⟩, []) := by decide
theorem test_dataEtx_absent : afterByte 0x03#8 ⟨.waitData, 5, none⟩ (nodeA .doTransmit) =
    some (⟨.waitSync1, 0, none⟩, []) := by decide
theorem test_dataCtrlErr : afterByte 0x02#8 ⟨.waitData, 5, some 0⟩ (nodeA .doTransmit) =
    some (⟨.waitData, 6, some 0⟩, [.decErr .wrongChar 6]) := by decide
theorem test_dataByte : afterByte 0x49#8 ⟨.waitData, 5, some 0⟩ (nodeA .doTransmit) =
    some (⟨.waitData, 6, some 0⟩, []) := by decide
theorem test_rawCtrl : afterByte 0x03#8 ⟨.waitRawData, 6, some 0⟩ (nodeA .doTransmit) =
    some (⟨.waitData, 7, some 0⟩, []) := by decide
theorem test_rawErr : afterByte 0x41#8 ⟨.waitRawData, 6, some 0⟩ (nodeA .doTransmit) =
    some (⟨.waitRawData, 7, some 0⟩, [.decErr .wrongChar 7]) := by decide
/-- DV33, its second byte, by the whole transaction. -/
theorem test_consume : (nextOf (exec (.consume 0x00#8 0) (bus ⟨.waitSync2, 1, none⟩ (nodeA .waitInit)))).map
    (fun t => (t.dec, t.trace)) = some (⟨.waitSync2, 2, none⟩, [.decErr .wrongChar 2]) := by decide
/-- W3: the escaped 0x03 lands in the output vector. -/
theorem test_consume_escaped : (nextOf (exec (.consume 0x03#8 0)
    (bus ⟨.waitRawData, 7, some 0⟩ { nodeA .doTransmit with index := 1, outVec := [(0, 0x12#8)] }))).map State.nodes =
      some [{ nodeA .doTransmit with index := 2 }] := by decide

/-! The node's entry points (NV vectors of section 2.2). -/

theorem test_init : afterCall .init (nodeA .waitInit) = some ([nodeA .waitNodeDefParam], []) := by decide
theorem test_init_out_of_state : afterCall .init (nodeA .waitPoll) =
    some ([nodeA .waitPoll], [.nodeErr .protocolError 0 0]) := by decide
theorem test_poll : afterCall .poll (nodeA .waitPoll) = some ([nodeA .waitEndPoll], []) := by decide
/-- W2. -/
theorem test_poll_out_of_state : afterCall .poll (nodeA .waitTransmit) =
    some ([nodeA .waitTransmit], [.nodeErr .protocolError 0 0]) := by decide
theorem test_transmit : afterCall .transmit { nodeA .waitTransmit with index := 7 } = some ([nodeA .doTransmit], []) := by
  decide
theorem test_transmit_out_of_state : afterCall .transmit (nodeA .waitPoll) =
    some ([nodeA .waitPoll], [.nodeErr .protocolError 0 0]) := by decide
/-- NV9, NV10, NV11, NV13, NV15, NV17, NV18, NV20. -/
theorem test_feed :
    afterCall (.feed 0x4E#8) (nodeA .waitNodeDefParam) = some ([nodeA .waitNodeDefParam], [.nodeErr .wrongType 0 0]) ∧
    afterCall (.feed 0x01#8) { nodeA .waitDelayHigh with delay := 0x1234 } =
      some ([{ nodeA .waitDelayLow with delay := 0x0100 }], []) ∧
    afterCall (.feed 0x2C#8) { nodeA .waitDelayLow with delay := 0x0100 } =
      some ([{ nodeA .waitNumSets with delay := 0x012C }], []) ∧
    afterCall (.feed 0x02#8) { nodeA .waitNumSets with index := 9 } =
      some ([{ nodeA .doInit with numSets := 2 }], []) ∧
    afterCall (.feed 0x07#8) { nodeA .doInit with numSets := 2 } =
      some ([{ nodeA .doInit with numSets := 2, index := 1, sub := [0x07#8] }], []) ∧
    afterCall (.feed 0x07#8) (nodeA .doInit) = some ([nodeA .doInit], [.nodeErr .protocolError 0 0]) ∧
    afterCall (.feed 0x12#8) { nodeA .doTransmit with outVec := [] } =
      some ([{ nodeA .doTransmit with index := 1, outVec := [(0, 0x12#8)] }], []) ∧
    afterCall (.feed 0x00#8) (nodeA .waitEndPoll) = some ([nodeA .waitEndPoll], [.nodeErr .protocolError 0 0]) := by decide
/-- NV19: a byte past the output vector is dropped and counted. -/
theorem test_feed_past_the_vector : afterCall (.feed 0x99#8) { nodeA .doTransmit with index := 2 } =
    some ([{ nodeA .doTransmit with index := 3 }], []) := by decide
/-- NV22 to NV25, NV28. -/
theorem test_endOfFrame :
    afterCall (.endOfFrame 9) { nodeA .doInit with numSets := 1, index := 1 } =
      some ([{ nodeA .waitPoll with numSets := 1, index := 1 }], []) ∧
    afterCall (.endOfFrame 9) { nodeA .doInit with numSets := 2, index := 1 } =
      some ([{ nodeA .doInit with numSets := 2, index := 1 }], [.nodeErr .initError 0 0]) ∧
    afterCall (.endOfFrame 100) (nodeA .waitEndPoll) = some ([{ nodeA .waitDelay with delayStart := 100 }], []) ∧
    afterCall (.endOfFrame 9) (nodeA .doTransmit) = some ([nodeA .waitPoll], []) ∧
    afterCall (.endOfFrame 9) (nodeA .waitPoll) = some ([nodeA .waitPoll], [.nodeErr .protocolError 0 0]) := by decide

/-! STEP (SV vectors of section 2.3). -/

/-- SV1, SV2: one time unit before the delay nothing happens, at the delay the response begins. -/
theorem test_step_delay :
    afterCall (.step 0 109) { nodeA .waitDelay with delayStart := 100, delay := 10 } =
      some ([{ nodeA .waitDelay with delayStart := 100, delay := 10 }], []) ∧
    afterCall (.step 0 110) { nodeA .waitDelay with delayStart := 100, delay := 10, index := 5 } =
      some ([{ nodeA .doReceive with delayStart := 100, delay := 10 }], [.txBegin 0 0]) := by decide
/-- SV7, SV8: the last byte, then finished. -/
theorem test_step_send :
    afterCall (.step 0 1) { nodeA .doReceive with index := 1 } =
      some ([{ nodeA .doReceive with index := 2 }], [.txByte 0 0x01#8]) ∧
    afterAccess (.step 0 1) { nodeA .doReceive with index := 2 } =
      some ([{ nodeA .waitTransmit with index := 2 }], [.finished 0 true]) := by decide

/-! Accessors and application (AV vectors of section 2.4). -/

theorem test_inRead :
    afterAccess (.inRead 0 1) (nodeA .waitPoll) = some ([nodeA .waitPoll], [.value 0x01#8]) ∧
    afterAccess (.inRead 0 2) (nodeA .waitPoll) = some ([nodeA .waitPoll], [.value 0x00#8]) := by decide
theorem test_inWrite :
    afterAccess (.inWrite 0 0 0x5A#8) (nodeA .waitPoll) =
      some ([{ nodeA .waitPoll with inVec := [(0, 0x5A#8), (1, 0x01#8)] }], []) ∧
    afterAccess (.inWrite 0 2 0x5A#8) (nodeA .waitPoll) = some ([nodeA .waitPoll], []) := by decide
theorem test_outRead :
    afterAccess (.outRead 0 0) (nodeA .waitPoll) = some ([nodeA .waitPoll], [.value 0x12#8]) ∧
    afterAccess (.outRead 0 300) (nodeA .waitPoll) = some ([nodeA .waitPoll], [.value 0x00#8]) := by decide
theorem test_outWrite :
    afterAccess (.outWrite 0 1 0x44#8) (nodeA .waitPoll) =
      some ([{ nodeA .waitPoll with outVec := [(0, 0x12#8), (1, 0x44#8)] }], []) ∧
    afterAccess (.outWrite 0 2 0x44#8) (nodeA .waitPoll) = some ([nodeA .waitPoll], []) := by decide
theorem test_appWriteIn : afterAccess (.appWriteIn 0 0 0xA5#8) { nodeA .waitPoll with inVec := [(1, 0x01#8)] } =
    some ([nodeA .waitPoll], []) := by decide
theorem test_appReadOut : afterAccess (.appReadOut 0 1) (nodeA .waitPoll) =
    some ([nodeA .waitPoll], [.value 0x03#8]) := by decide

/-! Construction and registry (RV vectors of section 2.5). -/

/-- RV1. -/
theorem test_construct_first : (nextOf (exec (.construct (descA 0)) State.reset)).map
    (fun t => (t.nodes.length, t.returns, t.reg.get 0)) = some (1, [.accepted 0 true], some 0) := by decide
/-- RV2. -/
theorem test_construct_duplicate : (nextOf (exec (.construct (descA 0)) (bus ⟨.waitSync1, 0, none⟩ (nodeA .waitInit)))).map
    (fun t => (t.nodes.length, t.returns, t.reg.get 0)) = some (2, [.accepted 1 false], some 0) := by decide
theorem test_register : (nextOf (exec (.register 0) { State.reset with nodes := [nodeA .waitInit] })).map
    (fun t => (t.returns, t.reg.get 0)) = some ([.accepted 0 true], some 0) := by decide
/-- RV4. -/
theorem test_lookup : (nextOf (exec (.lookup 5) (called (nodeA .waitInit)))).map State.returns = some [.found none] := by
  decide

/-! Witnesses: for each obligation with hypotheses, data that meet them together. -/

/-- Node 0 is the addressed node of `called`. -/
theorem called_isCur (n : Node) : IsCur (called n) 0 n := ⟨rfl, rfl⟩

/-- The registry of the bus: address 0 only. -/
theorem bus_reg (d : Dec) (n : Node) : ∀ a : Addr, (bus d n).reg.get a = if a = 0 then some 0 else none := by
  show ∀ a : Addr, ((Vector.replicate 128 (none : Option Nat)).set 0 (some 0)).get a = if a = 0 then some 0 else none
  decide

/-- A one-node bus in a header or payload state is a good state, for any well-kept node at address 0. -/
theorem bus_inv (d : Dec) (n : Node) (hd : d.cur = none ∨ d.cur = some 0 ∧ d.state = .waitData) (ha : n.addr = 0)
    (hv : VectorsOk n) (hr : RegistersOk n) (hs : n.delayStart = 0) : Inv (bus d n) where
  header := by
    rintro (h | h | h | h) <;> rcases hd with hd | ⟨-, hd⟩ <;> simp_all [bus]
  registry := by
    intro a k
    rw [bus_reg]
    constructor
    · intro h
      split at h <;> cases h
      exact ⟨⟨n, rfl, by rw [ha]; exact (‹a = 0›).symm⟩, fun j m hj => absurd hj (Nat.not_lt_zero j)⟩
    · rintro ⟨⟨m, hm, hma⟩, -⟩
      cases k with
      | zero => cases hm; rw [← hma, ha]; rfl
      | succ k => cases hm
  cur := by
    intro k hk
    rcases hd with hd | ⟨hd, -⟩
    · exact absurd (hd.symm.trans hk) (by simp)
    · cases hd.symm.trans hk
      exact ⟨n, rfl, by rw [ha, bus_reg]; rfl⟩
  inert := by
    intro k m hm hne
    cases k with
    | zero => cases hm; exact absurd (by rw [ha, bus_reg]; rfl) hne
    | succ k => cases hm
  vectors := by intro m hm; cases List.mem_singleton.1 hm; exact hv
  registers := by intro m hm; cases List.mem_singleton.1 hm; exact hr
  starts := by intro m hm; cases List.mem_singleton.1 hm; rw [hs]; exact Nat.zero_le _

/-- The node of CFG-A in the middle of a frame is a good state. -/
theorem called_inv (q : NodeState) : Inv (called (nodeA q)) :=
  bus_inv _ _ (.inr ⟨rfl, rfl⟩) rfl
    (by cases q <;> exact ⟨by decide, by decide, by decide, by decide⟩) ⟨fun _ => Nat.le_refl 0, fun _ => Nat.zero_le 2, fun _ => rfl⟩ rfl

theorem witness_DecodeOfEncodeIsTheInstruction :
    (WellFormed (.addr 127 3) ∧ ∀ p, rowState (.addr 127 3) = some p → DecState.waitAddr = p) ∧
    (WellFormed (.construct (descA 127)) ∧ ∀ p, rowState (.construct (descA 127)) = some p → DecState.waitStx = p) := by
  decide
theorem witness_DecodedInputIsItsEncoding : decode .waitRawData (.byte 0x03#8 1) = .ok (.rawCtrl 0x03#8 1) := by decide
/-- The boundary bytes of each class, in each decoder state. -/
theorem witness_EveryByteSelectsItsRow :
    (0xFE#8 : Byte) ≠ 0xFF#8 ∧ (0x03#8 : Byte) ≠ 0x02#8 ∧
    (0x41#8 : Byte).toNat = (0 : Addr).val + 65 ∧ (0xC0#8 : Byte).toNat = (127 : Addr).val + 65 ∧
    (0x40#8 : Byte).toNat < 0x41 ∧ 0xC0 < (0xC1#8 : Byte).toNat ∧
    ((0x52#8 : Byte) ≠ 0x49#8 ∧ (0x52#8 : Byte) ≠ 0x50#8 ∧ (0x52#8 : Byte) ≠ 0x54#8) ∧
    ((0x11#8 : Byte) ≠ 0x10#8 ∧ (0x11#8 : Byte) ≠ 0x03#8 ∧ (0x11#8 : Byte) ≠ 0xFF#8 ∧ (0x11#8 : Byte) ≠ 0x02#8) := by
  decide
theorem witness_StepRunsTheDecodedInstruction :
    (decode (bus ⟨.waitSync1, 0, none⟩ (nodeA .waitInit)).dec.state (.byte 0xFF#8 0) = .ok (.sync1 0) ∧
      timeOf (.sync1 0) = some 0 ∧ (bus ⟨.waitSync1, 0, none⟩ (nodeA .waitInit)).clock ≤ 0) ∧
    (decode (called (nodeA .waitInit)).dec.state (.call .init) = .ok .init ∧ timeOf .init = none) := by decide
theorem witness_IdleStepChangesNothing : (called (nodeA .waitInit)).inbox = [] := rfl
theorem witness_InputsOutsideTheSpecAreRefused :
    { State.reset with inbox := [.reenter .poll] }.inbox = [.reenter .poll] ∧
    { State.reset with inbox := [.attachDecoder] }.inbox = [.attachDecoder] ∧
    (decode State.reset.dec.state (.byte 0x00#8 4) = .ok (.sync1Err 0x00#8 4) ∧ timeOf (.sync1Err 0x00#8 4) = some 4 ∧
      4 < { State.reset with clock := 5, inbox := [.byte 0x00#8 4] }.clock) := by decide
theorem witness_EveryByteOnTimeRuns :
    { State.reset with clock := 5, inbox := [.byte 0xFF#8 5] }.inbox = .byte 0xFF#8 5 :: [] ∧
    { State.reset with clock := 5, inbox := [.byte 0xFF#8 5] }.clock ≤ 5 := by decide

theorem witness_ExpectedFramingBytesAdvance : ∀ q ∈ [DecState.waitSync1, .waitSync2, .waitStx, .waitData],
    (bus ⟨q, 0, none⟩ (nodeA .waitInit)).dec.state = q := by intro q _; rfl
theorem witness_WrongHeaderBytesAreWrongChar :
    ((bus ⟨.waitSync1, 0, none⟩ (nodeA .waitInit)).dec.state = .waitSync1 ∧ (0x00#8 : Byte) ≠ 0xFF#8) ∧
    ((bus ⟨.waitSync2, 1, none⟩ (nodeA .waitInit)).dec.state = .waitSync2 ∧ (0xFE#8 : Byte) ≠ 0xFF#8) ∧
    ((bus ⟨.waitStx, 2, none⟩ (nodeA .waitInit)).dec.state = .waitStx ∧ (0x03#8 : Byte) ≠ 0x02#8) := by decide
theorem witness_AddressByteSelectsTheRegisteredNode :
    (bus ⟨.waitAddr, 3, none⟩ (nodeA .waitInit)).dec.state = .waitAddr ∧
    (0x41 ≤ (0x41#8 : Byte).toNat ∧ (0x41#8 : Byte).toNat ≤ 0xC0) ∧
    (0x41 ≤ (0xC0#8 : Byte).toNat ∧ (0xC0#8 : Byte).toNat ≤ 0xC0) := by decide
theorem witness_WrongAddressAndTypeBytesAreReported :
    ((bus ⟨.waitAddr, 3, none⟩ (nodeA .waitInit)).dec.state = .waitAddr ∧ (0x40#8 : Byte).toNat < 0x41 ∧
      0xC0 < (0xC1#8 : Byte).toNat) ∧
    ((bus ⟨.waitType, 4, none⟩ (nodeA .waitInit)).dec.state = .waitType ∧ (0x52#8 : Byte) ≠ 0x49#8 ∧
      (0x52#8 : Byte) ≠ 0x50#8 ∧ (0x52#8 : Byte) ≠ 0x54#8) := by decide
theorem witness_TypeBytesRunTheirControlCall :
    (bus ⟨.waitType, 4, some 0⟩ (nodeA .waitPoll)).dec.state = .waitType := rfl
theorem witness_EndByteEndsTheFrame : (called (nodeA .waitEndPoll)).dec.state = .waitData := rfl
theorem witness_WrongPayloadBytesAreWrongChar :
    ((called (nodeA .doTransmit)).dec.state = .waitData ∧ ((0xFF#8 : Byte) = 0xFF#8 ∨ (0xFF#8 : Byte) = 0x02#8) ∧
      ((0x02#8 : Byte) = 0xFF#8 ∨ (0x02#8 : Byte) = 0x02#8)) ∧
    ((bus ⟨.waitRawData, 6, some 0⟩ (nodeA .doTransmit)).dec.state = .waitRawData ∧ (0x11#8 : Byte) ≠ 0x10#8 ∧
      (0x11#8 : Byte) ≠ 0x03#8 ∧ (0x11#8 : Byte) ≠ 0xFF#8 ∧ (0x11#8 : Byte) ≠ 0x02#8) := by decide
theorem witness_PayloadBytesAreFed :
    ((called (nodeA .doTransmit)).dec.state = .waitData ∧ (0x11#8 : Byte) ≠ 0x10#8 ∧ (0x11#8 : Byte) ≠ 0x03#8 ∧
      (0x11#8 : Byte) ≠ 0xFF#8 ∧ (0x11#8 : Byte) ≠ 0x02#8) ∧
    ((bus ⟨.waitRawData, 6, some 0⟩ (nodeA .doTransmit)).dec.state = .waitRawData ∧ (0x10#8 : Byte) = 0x10#8) := by decide
theorem witness_CallsToAnAbsentNodeAreDiscarded : State.reset.dec.cur = none := rfl
/-- An accepting row and an error row. -/
theorem witness_DecoderOnlyRowsLeaveTheNodes :
    (Instr.addr 127 0 ∈ [.sync1 0, .sync2 0, .stx 0, .addr 127 0, .dataEsc 0] ∧
      ∃ t, exec (.addr 127 0) (bus ⟨.waitAddr, 3, none⟩ (nodeA .waitInit)) = .next t) ∧
    (Instr.stxErr 0xFF#8 0 ∈ [.sync1Err 0xFF#8 0, .sync2Err 0xFF#8 0, .stxErr 0xFF#8 0, .addrErr 0xFF#8 0,
      .typeErr 0xFF#8 0, .dataCtrlErr 0xFF#8 0, .rawErr 0xFF#8 0] ∧
      ∃ t, exec (.stxErr 0xFF#8 0) (bus ⟨.waitStx, 2, none⟩ (nodeA .waitInit)) = .next t) :=
  ⟨⟨by decide, _, rfl⟩, by decide, _, rfl⟩
/-- A row, and a CONSUME whose byte feeds nothing, so that its vector clause has no exception. -/
theorem witness_NodeCallingRowsTouchOnlyTheCurrentNode :
    (Instr.rawCtrl 0x03#8 0 ∈ [.typeInit 0, .typePoll 0, .typeTransmit 0, .dataEtx 0, .dataByte 0x03#8 0,
      .rawCtrl 0x03#8 0, .consume 0x03#8 0] ∧
      ∃ t, exec (.rawCtrl 0x03#8 0) (bus ⟨.waitRawData, 6, some 0⟩ (nodeA .doTransmit)) = .next t) ∧
    ((∃ t, exec (.consume 0x03#8 0) (called (nodeA .doTransmit)) = .next t) ∧
      decodeByte (called (nodeA .doTransmit)).dec.state 0x03#8 0 ≠ .dataByte 0x03#8 0 ∧
      decodeByte (called (nodeA .doTransmit)).dec.state 0x03#8 0 ≠ .rawCtrl 0x03#8 0) :=
  ⟨⟨by decide, _, rfl⟩, ⟨_, rfl⟩, by decide, by decide⟩

/-- Every protocol state, which meets each clause. -/
theorem witness_ControlCallsAreAcceptedInOneState (q : NodeState) :
    IsCur (called (nodeA q)) 0 (nodeA q) ∧ (nodeA q).state = q := ⟨called_isCur _, rfl⟩
theorem witness_FeedChecksTheTypeIdentifier :
    IsCur (called (nodeA .waitNodeDefParam)) 0 (nodeA .waitNodeDefParam) ∧
    (nodeA .waitNodeDefParam).state = .waitNodeDefParam ∧ 0x4D#8 = (nodeA .waitNodeDefParam).typeId ∧
    0x4E#8 ≠ (nodeA .waitNodeDefParam).typeId := ⟨called_isCur _, rfl, rfl, by decide⟩
theorem witness_FeedLoadsDelayAndSetCount :
    ∀ q ∈ [NodeState.waitDelayHigh, .waitDelayLow, .waitNumSets],
      IsCur (called (nodeA q)) 0 (nodeA q) ∧ (nodeA q).state = q := fun _ _ => ⟨called_isCur _, rfl⟩
theorem witness_DelayIsBigEndianOnTheWire :
    IsCur (called (nodeA .waitDelayHigh)) 0 (nodeA .waitDelayHigh) ∧ (nodeA .waitDelayHigh).state = .waitDelayHigh :=
  ⟨called_isCur _, rfl⟩
/-- Each routine with a set byte to come, and a count already reached. -/
theorem witness_FeedDecodesInitSets :
    (∀ r, IsCur (called { nodeA .doInit with numSets := 1, routine := r }) 0
      { nodeA .doInit with numSets := 1, routine := r }) ∧
    ({ nodeA .doInit with numSets := 1, routine := .other 4 }.routine = .other 4 ∧
      { nodeA .doInit with numSets := 1, routine := .other 4 }.index < (1#8 : Byte).toNat) ∧
    (IsCur (called (nodeA .doInit)) 0 (nodeA .doInit) ∧ (nodeA .doInit).numSets.toNat ≤ (nodeA .doInit).index) :=
  ⟨fun _ => called_isCur _, by decide, called_isCur _, by decide⟩
theorem witness_FeedStoresOneOutputByte :
    IsCur (called (nodeA .doTransmit)) 0 (nodeA .doTransmit) ∧ (nodeA .doTransmit).state = .doTransmit ∧
    (nodeA .doTransmit).outVec.wf ∧ (nodeA .doTransmit).index < (nodeA .doTransmit).outBytes :=
  ⟨called_isCur _, rfl, by decide, by decide⟩
theorem witness_FeedElsewhereIsAProtocolError :
    IsCur (called (nodeA .waitEndPoll)) 0 (nodeA .waitEndPoll) ∧
    (nodeA .waitEndPoll).state ∈
      [NodeState.waitInit, .waitPoll, .waitEndPoll, .waitDelay, .doReceive, .waitTransmit] :=
  ⟨called_isCur _, by decide⟩
/-- Set count reached and not reached; the other clauses by the protocol state alone. -/
theorem witness_EndOfFrameByNodeState :
    (IsCur (called { nodeA .doInit with index := 2, numSets := 2 }) 0 { nodeA .doInit with index := 2, numSets := 2 } ∧
      2 = (2#8 : Byte).toNat) ∧
    (IsCur (called { nodeA .doInit with index := 1, numSets := 2 }) 0 { nodeA .doInit with index := 1, numSets := 2 } ∧
      1 ≠ (2#8 : Byte).toNat) ∧
    ∀ q, IsCur (called (nodeA q)) 0 (nodeA q) ∧ (nodeA q).state = q :=
  ⟨⟨called_isCur _, rfl⟩, ⟨called_isCur _, by decide⟩, fun _ => ⟨called_isCur _, rfl⟩⟩
theorem witness_EntryPointsTouchOnlyTheirNode :
    Instr.feed 0x00#8 ∈ [.init, .poll, .transmit, .feed 0x00#8, .endOfFrame 0] ∧
    IsCur (called (nodeA .doTransmit)) 0 (nodeA .doTransmit) ∧
    (∃ t, exec (.feed 0x00#8) (called (nodeA .doTransmit)) = .next t) ∧ 1 ≠ (nodeA .doTransmit).index :=
  ⟨by decide, called_isCur _, ⟨_, rfl⟩, by decide⟩
theorem witness_ProtocolCycleReachesWaitDelay :
    IsCur (called (nodeA .waitInit)) 0 (nodeA .waitInit) ∧ (nodeA .waitInit).state = .waitInit ∧
    [0x07#8, 0x03#8, 0x10#8].length = (3#8 : Byte).toNat := ⟨called_isCur _, rfl, rfl⟩

/-- SV2: the delay has just elapsed. -/
theorem witness_StepAfterTheDelayBeginsTheResponse :
    (called { nodeA .waitDelay with delayStart := 100, delay := 10 }).nodes[0]? =
      some { nodeA .waitDelay with delayStart := 100, delay := 10 } ∧ 100 + (10#16 : DelayWord).toNat ≤ 110 :=
  ⟨rfl, by decide⟩
/-- SV1 and SV10. -/
theorem witness_StepElsewhereChangesNothing :
    ((called { nodeA .waitDelay with delayStart := 100, delay := 10 }).nodes[0]? =
      some { nodeA .waitDelay with delayStart := 100, delay := 10 } ∧ 109 < 100 + (10#16 : DelayWord).toNat) ∧
    ((called (nodeA .waitPoll)).nodes[0]? = some (nodeA .waitPoll) ∧ (nodeA .waitPoll).state ≠ .waitDelay ∧
      (nodeA .waitPoll).state ≠ .doReceive) := ⟨⟨rfl, by decide⟩, rfl, by decide, by decide⟩
theorem witness_StepSendsTheNextInputByte :
    (called { nodeA .doReceive with index := 1 }).nodes[0]? = some { nodeA .doReceive with index := 1 } ∧
    1 < (nodeA .doReceive).inBytes := ⟨rfl, by decide⟩
theorem witness_StepFinishesTheResponse :
    (called { nodeA .doReceive with index := 2 }).nodes[0]? = some { nodeA .doReceive with index := 2 } ∧
    (nodeA .doReceive).inBytes ≤ 2 := ⟨rfl, by decide⟩
theorem witness_StepTouchesOnlyItsNode : ∃ t, exec (.step 0 7) (called (nodeA .doReceive)) = .next t := ⟨_, rfl⟩
theorem witness_ReceivePathSendsTheInputVector :
    (called { nodeA .waitDelay with delayStart := 100, delay := 10 }).nodes[0]? =
      some { nodeA .waitDelay with delayStart := 100, delay := 10 } ∧
    100 + (10#16 : DelayWord).toNat ≤ 110 ∧ [111, 112, 113].length = (nodeA .waitDelay).inBytes + 1 :=
  ⟨rfl, by decide, rfl⟩
theorem witness_ResponseNeverBeginsBeforeTheDelay :
    ∃ t, step { called { nodeA .waitDelay with delayStart := 100, delay := 10 } with inbox := [.call (.step 0 110)] } =
      .next t ∧ t.trace = [] ++ [.txBegin 0 0] := ⟨_, rfl, rfl⟩
theorem witness_StepsOfDifferentNodesCommute :
    { called (nodeA .doReceive) with nodes := [nodeA .doReceive, nodeA .waitDelay] }.nodes[0]? = some (nodeA .doReceive) ∧
    { called (nodeA .doReceive) with nodes := [nodeA .doReceive, nodeA .waitDelay] }.nodes[1]? = some (nodeA .waitDelay) ∧
    0 ≠ 1 := ⟨rfl, rfl, by decide⟩

/-- The last index inside each vector and the first outside. -/
theorem witness_VectorReadsReturnTheByteOrZero :
    (called (nodeA .waitPoll)).nodes[0]? = some (nodeA .waitPoll) ∧
    1 < (nodeA .waitPoll).inBytes ∧ (nodeA .waitPoll).inBytes ≤ 2 ∧
    1 < (nodeA .waitPoll).outBytes ∧ (nodeA .waitPoll).outBytes ≤ 2 :=
  ⟨rfl, by decide, by decide, by decide, by decide⟩
theorem witness_VectorWritesStoreOrAreIgnored :
    (called (nodeA .waitPoll)).nodes[0]? = some (nodeA .waitPoll) ∧ (nodeA .waitPoll).inVec.wf ∧
    (nodeA .waitPoll).outVec.wf ∧ 1 < (nodeA .waitPoll).inBytes ∧ (nodeA .waitPoll).inBytes ≤ 2 ∧
    1 < (nodeA .waitPoll).outBytes ∧ (nodeA .waitPoll).outBytes ≤ 2 :=
  ⟨rfl, by decide, by decide, by decide, by decide, by decide, by decide⟩
theorem witness_ApplicationUsesTheAccessors :
    (called (nodeA .waitPoll)).nodes[0]? = some (nodeA .waitPoll) ∧ (nodeA .waitPoll).inVec.wf ∧
    1 < (nodeA .waitPoll).inBytes := ⟨rfl, by decide, by decide⟩
theorem witness_MissingNodesFault : (called (nodeA .waitPoll)).nodes.length ≤ 1 := by decide

/-- A free entry, and a taken one. -/
theorem witness_ConstructAddsARegisteredNode :
    ((descA 127).addr < 128 ∧ (descA 127).inInit.length = byteCount (descA 127).inBits ∧
      (descA 127).outInit.length = byteCount (descA 127).outBits ∧ State.reset.started = false) ∧
    State.reset.reg.get 127 = none ∧ (called (nodeA .waitInit)).reg.get 0 ≠ none := by decide
theorem witness_BadOrLateConstructionIsRefused :
    128 ≤ (descA 128).addr ∧
    ((descA 127).addr < 128 ∧ { descA 127 with inInit := [] }.inInit.length ≠ byteCount (descA 127).inBits) ∧
    ((descA 0).problem = none ∧ { State.reset with started := true }.started = true) := by decide
theorem witness_RegisterKeepsTheFirstRegistrant :
    ({ State.reset with nodes := [nodeA .waitInit] }.nodes[0]? = some (nodeA .waitInit) ∧
      State.reset.reg.get (nodeA .waitInit).addr = none) ∧
    ((called (nodeA .waitInit)).nodes[0]? = some (nodeA .waitInit) ∧
      (called (nodeA .waitInit)).reg.get (nodeA .waitInit).addr ≠ none) := by decide
theorem witness_RegistryEntriesLiveForever :
    ∃ t, step { called (nodeA .waitInit) with started := true, inbox := [.call (.register 0)] } = .next t ∧
      FirstRegistrantWins { called (nodeA .waitInit) with started := true, inbox := [.call (.register 0)] } ∧
      (called (nodeA .waitInit)).reg.get 0 = some 0 := ⟨_, rfl, (called_inv .waitInit).registry, by decide⟩

/-- A good state in the middle of a frame, and a step from it that writes the output vector. -/
theorem witness_InvariantIsKeptByEveryStep :
    Inv { called (nodeA .doTransmit) with inbox := [.byte 0x41#8 0] } ∧
    ∃ t, step { called (nodeA .doTransmit) with inbox := [.byte 0x41#8 0] } = .next t := by
  have h := called_inv .doTransmit
  exact ⟨⟨h.header, h.registry, h.cur, h.inert, h.vectors, h.registers, h.starts⟩, _, rfl⟩
theorem witness_NodeConfigurationIsReadOnly :
    ∃ t, step { called (nodeA .doTransmit) with inbox := [.byte 0x41#8 0] } = .next t ∧
      { called (nodeA .doTransmit) with inbox := [.byte 0x41#8 0] }.nodes[0]? = some (nodeA .doTransmit) := ⟨_, rfl, rfl⟩
theorem witness_WaitInitIsNeverEnteredAgain :
    ∃ t n', step { called (nodeA .waitPoll) with inbox := [.call .init] } = .next t ∧
      { called (nodeA .waitPoll) with inbox := [.call .init] }.nodes[0]? = some (nodeA .waitPoll) ∧
      (nodeA .waitPoll).state ≠ .waitInit ∧ t.nodes[0]? = some n' := ⟨_, _, rfl, rfl, by decide, rfl⟩
/-- A decoder report and a node report. -/
theorem witness_ReportsChangeOnlyTheTrace :
    (∃ t, exec (.stxErr 0xFF#8 0) (bus ⟨.waitStx, 2, none⟩ (nodeA .waitInit)) = .next t ∧
      t.trace = [] ++ [.decErr .wrongChar 3]) ∧
    (∃ t, exec .poll (called (nodeA .waitTransmit)) = .next t ∧ t.trace = [] ++ [.nodeErr .protocolError 0 0]) :=
  ⟨⟨_, rfl, rfl⟩, _, rfl, rfl⟩
theorem witness_StepEmitsAtMostOneEventAndNoInternalError :
    ∃ t, step { called (nodeA .waitPoll) with inbox := [.byte 0xFF#8 0] } = .next t := ⟨_, rfl⟩
/-- Two different states that agree but for a dead register, and an instruction of each outcome. -/
theorem witness_DeadRegistersAreUnobservable :
    (called (nodeA .waitPoll)).live = (called { nodeA .waitPoll with index := 9 }).live ∧
    called (nodeA .waitPoll) ≠ called { nodeA .waitPoll with index := 9 } ∧
    (∃ t, exec .poll (called (nodeA .waitPoll)) = .next t) ∧
    exec (.step 1 0) (called (nodeA .waitPoll)) = .fault (.noSuchNode 1) ∧
    exec (.construct (descA 128)) (called (nodeA .waitPoll)) = .refused (.input (.addressOutOfRange 128)) :=
  ⟨rfl, by decide, ⟨_, rfl⟩, rfl, rfl⟩

/-- W7: one stream for each type byte. -/
theorem witness_ValidFrameMakesItsCalls :
    State.reset.dec.state = .waitSync1 ∧ ∀ t ∈ [0x49#8, 0x50#8, 0x54#8],
      [(0xFF#8, 1), (0xFF#8, 1), (0x02#8, 2), (0x41#8, 2), (t, 3), (0x10#8, 3), (0x03#8, 3), (0x07#8, 4)].map Prod.fst =
        [0xFF#8, 0xFF#8, 0x02#8, byteOfAddr 0, t] ++ stuffAll [0x03#8, 0x07#8] := by decide
theorem witness_StuffedPayloadIsDelivered :
    (called (nodeA .doTransmit)).dec.state = .waitData ∧
    [(0x10#8, 1), (0x03#8, 1), (0x12#8, 2)].map Prod.fst = stuffAll [0x03#8, 0x12#8] := by decide
theorem witness_HeaderStatesResynchronise : ∀ q ∈ [DecState.waitSync1, .waitSync2, .waitStx, .waitAddr],
    (bus ⟨q, 3, none⟩ (nodeA .waitInit)).dec.state ∈ [DecState.waitSync1, .waitSync2, .waitStx, .waitAddr] :=
  fun _ h => h
theorem witness_HeaderInsideAPayloadIsNotRecognised : (called (nodeA .waitEndPoll)).dec.state = .waitData := rfl

end Sys2Proof.Tests
end

section
/-! The nodes after a transaction (R36): which writes of a node the rules have, which changes of the node list one step can
make, and that none of them touches a configuration or removes a node (O51). -/
namespace Sys2Proof.Machine

/-! What an accepted node call answers, said once per entry point. -/

/-- INIT is accepted in WaitInit alone (R162). -/
theorem Node.init_ok {n n' : Node} (h : n.init = .ok n') :
    n.state = .waitInit ∧ n' = { n with state := .waitNodeDefParam } := by
  cases hs : n.state <;> simp only [Node.init, hs, reduceCtorEq, Except.ok.injEq] at h
  exact ⟨rfl, h.symm⟩

/-- POLL is accepted in WaitPoll alone (R163). -/
theorem Node.poll_ok {n n' : Node} (h : n.poll = .ok n') :
    n.state = .waitPoll ∧ n' = { n with state := .waitEndPoll } := by
  cases hs : n.state <;> simp only [Node.poll, hs, reduceCtorEq, Except.ok.injEq] at h
  exact ⟨rfl, h.symm⟩

/-- TRANSMIT is accepted in WaitTransmit alone (R164). -/
theorem Node.transmit_ok {n n' : Node} (h : n.transmit = .ok n') :
    n.state = .waitTransmit ∧ n' = { n with index := 0, state := .doTransmit } := by
  cases hs : n.state <;> simp only [Node.transmit, hs, reduceCtorEq, Except.ok.injEq] at h
  exact ⟨rfl, h.symm⟩

/-- The six ways FEED is accepted (R166 to R172). -/
theorem Node.feed_ok {b : Byte} {n n' : Node} (h : n.feed b = .ok n') :
    (n.state = .waitNodeDefParam ∧ b = n.typeId ∧ n' = { n with state := .waitDelayHigh }) ∨
    (n.state = .waitDelayHigh ∧ n' = { n with delay := delayHigh b, state := .waitDelayLow }) ∨
    (n.state = .waitDelayLow ∧ n' = { n with delay := delayLow n.delay b, state := .waitNumSets }) ∨
    (n.state = .waitNumSets ∧ n' = { n with numSets := b, index := 0, state := .doInit }) ∨
    (n.state = .doInit ∧ n.index < n.numSets.toNat ∧
      n' = { n with sub := applyInitSet n.routine n.sub n.index b, index := n.index + 1 }) ∨
    (n.state = .doTransmit ∧ n' = { n.outWrite n.index b with index := n.index + 1 }) := by
  cases hs : n.state <;>
    simp only [Node.feed, hs, reduceCtorEq, Except.ok.injEq] at h
  case waitNodeDefParam =>
    split at h
    next hb => exact .inl ⟨rfl, hb, (Except.ok.inj h).symm⟩
    next => cases h
  case doInit =>
    split at h
    next hi => exact .inr (.inr (.inr (.inr (.inl ⟨rfl, (setsPending_iff n).mp hi, (Except.ok.inj h).symm⟩))))
    next => cases h
  all_goals simp [← h]

/-- The three ways END_OF_FRAME is accepted (R175 to R177). -/
theorem Node.endOfFrame_ok {now : Nat} {n n' : Node} (h : n.endOfFrame now = .ok n') :
    (n.state = .doInit ∧ n.index = n.numSets.toNat ∧ n' = { n with state := .waitPoll }) ∨
    (n.state = .waitEndPoll ∧ n' = { n with delayStart := now, state := .waitDelay }) ∨
    (n.state = .doTransmit ∧ n' = { n with state := .waitPoll }) := by
  cases hs : n.state <;> simp only [Node.endOfFrame, hs, reduceCtorEq, Except.ok.injEq] at h
  case doInit =>
    split at h
    next hi => exact .inl ⟨rfl, (setsComplete_iff n).mp hi, (Except.ok.inj h).symm⟩
    next => cases h
  all_goals simp [← h]

/-! One transaction writes at most one node, or appends one. -/

/-- The writes of a node: an accepted call of an entry point, a time-driven step, a store into a vector. -/
inductive NodeWrite (n : Node) : Node → Prop where
  | init {n'} (h : n.init = .ok n') : NodeWrite n n'
  | poll {n'} (h : n.poll = .ok n') : NodeWrite n n'
  | transmit {n'} (h : n.transmit = .ok n') : NodeWrite n n'
  | feed {n'} (b : Byte) (h : n.feed b = .ok n') : NodeWrite n n'
  | endOfFrame {n'} (now : Nat) (h : n.endOfFrame now = .ok n') : NodeWrite n n'
  | beginResponse (h : n.state = .waitDelay) : NodeWrite n { n with index := 0, state := .doReceive }
  | sendByte (h : n.state = .doReceive) (hi : n.index < n.inBytes) : NodeWrite n { n with index := n.index + 1 }
  | endResponse (h : n.state = .doReceive) (hi : n.inBytes ≤ n.index) : NodeWrite n { n with state := .waitTransmit }
  | inWrite (i : Nat) (v : Byte) : NodeWrite n (n.inWrite i v)
  | outWrite (i : Nat) (v : Byte) : NodeWrite n (n.outWrite i v)

/-- What a transaction can do to the list of nodes: nothing, write one that exists, or append a constructed one. -/
inductive NodesChange (ns : List Node) : List Node → Prop where
  | same : NodesChange ns ns
  | write {k n n'} (hk : ns[k]? = some n) (hw : NodeWrite n n') : NodesChange ns (ns.set k n')
  | construct (d : NodeDesc) : NodesChange ns (ns ++ [Node.ofDesc d])

/-- A call of the current node writes that node as its entry point does, or leaves all nodes. -/
theorem callCur_nodesChange {f : Node → Except ErrorKind Node} (s : State)
    (hf : ∀ {n n'}, f n = .ok n' → NodeWrite n n') : NodesChange s.nodes (callCur f s).nodes := by
  rcases callCur_cases f s with h | ⟨k, n, n', hcur, hok, h⟩ | ⟨k, n, e, _, _, h⟩ <;> rw [h]
  · exact .same
  · exact .write hcur.node (hf hok)
  · exact .same

/-- A wire byte calls at most one entry point, of the current node (R140). -/
theorem consume_nodesChange (b : Byte) (now : Nat) (s : State) : NodesChange s.nodes (consume b now s).nodes := by
  unfold consume
  cases s.dec.state with
  | waitSync1 | waitSync2 | waitStx | waitAddr => dsimp only; split <;> exact .same
  | waitType =>
    dsimp only
    split_ifs
    · exact callCur_nodesChange s .init
    · exact callCur_nodesChange s .poll
    · exact callCur_nodesChange s .transmit
    · exact .same
  | waitData =>
    dsimp only
    split_ifs
    · exact .same
    · exact callCur_nodesChange s (.endOfFrame now)
    · exact .same
    · exact callCur_nodesChange s (.feed b)
  | waitRawData =>
    dsimp only
    split
    · exact callCur_nodesChange s (.feed b)
    · exact .same

/-- A time-driven step writes its own node or leaves all nodes. -/
theorem stepNode_nodesChange {k : Nat} {n : Node} {s : State} (now : Nat) (hk : s.nodes[k]? = some n) :
    NodesChange s.nodes (stepNode k now n s).nodes := by
  rcases stepNode_cases k now n s with ⟨hq, _, h⟩ | ⟨hq, hi, h⟩ | ⟨hq, hi, h⟩ | ⟨_, _, h⟩ <;> rw [h]
  · exact .write hk (.beginResponse hq)
  · exact .write hk (.sendByte hq hi)
  · exact .write hk (.endResponse hq hi)
  · exact .same

/-- Registering leaves the nodes. -/
@[simp] theorem registerAt_nodes (k : Nat) (a : Addr) (s : State) : (registerAt k a s).nodes = s.nodes := by
  rcases registerAt_cases k a s with ⟨_, h⟩ | ⟨_, h⟩ <;> rw [h] <;> rfl

/-- An operation that names a node changes the nodes as its body does on that node. -/
theorem withNode_nodesChange {k : Nat} {s t : State} {f : Node → State} (h : withNode k s f = .next t)
    (hf : ∀ {n}, s.nodes[k]? = some n → NodesChange s.nodes (f n).nodes) : NodesChange s.nodes t.nodes := by
  obtain ⟨n, hk, rfl⟩ := withNode_next h
  exact hf hk

/-- Every instruction leaves the nodes, writes one or appends one. -/
theorem exec_nodesChange {i : Instr} {s t : State} (h : exec i s = .next t) : NodesChange s.nodes t.nodes := by
  cases i with
  | sync1 | sync1Err | sync2 | sync2Err | stx | stxErr | addr | addrErr | typeErr | dataEsc | dataCtrlErr | rawErr
  | lookup => cases h; exact .same
  | typeInit | init => cases h; exact callCur_nodesChange s .init
  | typePoll | poll => cases h; exact callCur_nodesChange s .poll
  | typeTransmit | transmit => cases h; exact callCur_nodesChange s .transmit
  | dataByte b | rawCtrl b | feed b => cases h; exact callCur_nodesChange s (.feed b)
  | dataEtx now | endOfFrame now => cases h; exact callCur_nodesChange s (.endOfFrame now)
  | consume b now => cases h; exact consume_nodesChange b now s
  | step k now => exact withNode_nodesChange h (stepNode_nodesChange now)
  | inRead | outRead | appReadOut => exact withNode_nodesChange h fun _ => .same
  | inWrite k i v | appWriteIn k i v => exact withNode_nodesChange h fun hk => .write hk (.inWrite i v)
  | outWrite k i v => exact withNode_nodesChange h fun hk => .write hk (.outWrite i v)
  | register => exact withNode_nodesChange h fun _ => by simpa using .same
  | construct d =>
    obtain ⟨_, _, rfl⟩ := execConstruct_next h
    simpa using .construct d

/-- Every machine step leaves the nodes, writes one or appends one. -/
theorem step_nodesChange {s t : State} (h : step s = .next t) : NodesChange s.nodes t.nodes := by
  rcases step_next_cases h with ⟨_, rfl⟩ | ⟨x, rest, i, _, _, ⟨_, he⟩ | ⟨now, _, _, he⟩⟩
  · exact .same
  · have hc := exec_nodesChange he
    exact hc
  · have hc := exec_nodesChange he
    exact hc

/-! No write touches a configuration. -/

theorem SameConfig.refl (n : Node) : SameConfig n n := ⟨rfl, rfl, rfl, rfl, rfl⟩

theorem sameConfig_inWrite (n : Node) (i : Nat) (v : Byte) : SameConfig n (n.inWrite i v) := by
  unfold Node.inWrite
  split <;> exact ⟨rfl, rfl, rfl, rfl, rfl⟩

theorem sameConfig_outWrite (n : Node) (i : Nat) (v : Byte) : SameConfig n (n.outWrite i v) := by
  unfold Node.outWrite
  split <;> exact ⟨rfl, rfl, rfl, rfl, rfl⟩

theorem sameConfig_feed {b : Byte} {n n' : Node} (h : n.feed b = .ok n') : SameConfig n n' := by
  rcases Node.feed_ok h with ⟨_, _, rfl⟩ | ⟨_, rfl⟩ | ⟨_, rfl⟩ | ⟨_, rfl⟩ | ⟨_, _, rfl⟩ | ⟨_, rfl⟩
  rotate_right
  · obtain ⟨ha, ht, hi, ho, hr⟩ := sameConfig_outWrite n n.index b
    exact ⟨ha, ht, hi, ho, hr⟩
  all_goals exact ⟨rfl, rfl, rfl, rfl, rfl⟩

theorem sameConfig_endOfFrame {now : Nat} {n n' : Node} (h : n.endOfFrame now = .ok n') : SameConfig n n' := by
  rcases Node.endOfFrame_ok h with ⟨_, _, rfl⟩ | ⟨_, rfl⟩ | ⟨_, rfl⟩ <;> exact ⟨rfl, rfl, rfl, rfl, rfl⟩

theorem NodeWrite.sameConfig {n n' : Node} (h : NodeWrite n n') : SameConfig n n' := by
  cases h with
  | init h => obtain ⟨_, rfl⟩ := Node.init_ok h; exact ⟨rfl, rfl, rfl, rfl, rfl⟩
  | poll h => obtain ⟨_, rfl⟩ := Node.poll_ok h; exact ⟨rfl, rfl, rfl, rfl, rfl⟩
  | transmit h => obtain ⟨_, rfl⟩ := Node.transmit_ok h; exact ⟨rfl, rfl, rfl, rfl, rfl⟩
  | feed b h => exact sameConfig_feed h
  | endOfFrame now h => exact sameConfig_endOfFrame h
  | beginResponse | sendByte | endResponse => exact ⟨rfl, rfl, rfl, rfl, rfl⟩
  | inWrite i v => exact sameConfig_inWrite n i v
  | outWrite i v => exact sameConfig_outWrite n i v

/-- A change of the node list keeps every node under its index, with its configuration. -/
theorem NodesChange.sameConfig {ns ms : List Node} {j : Nat} {m : Node} (h : NodesChange ns ms)
    (hj : ns[j]? = some m) : ∃ m', ms[j]? = some m' ∧ SameConfig m m' := by
  obtain ⟨hlt, _⟩ := List.getElem?_eq_some_iff.mp hj
  cases h with
  | same => exact ⟨m, hj, .refl m⟩
  | @write k n n' hk hw =>
    by_cases hkj : k = j
    · subst hkj
      obtain rfl : n = m := Option.some.inj (hk.symm.trans hj)
      exact ⟨n', List.getElem?_set_self hlt, hw.sameConfig⟩
    · exact ⟨m, (List.getElem?_set_ne hkj).trans hj, .refl m⟩
  | construct d => exact ⟨m, (List.getElem?_append_left hlt).trans hj, .refl m⟩

/-- Settles O51: a step leaves the node list, writes one node outside its configuration, or appends a node. -/
theorem nodeConfigurationIsReadOnly : Obligations.NodeConfigurationIsReadOnly := by
  unfold Obligations.NodeConfigurationIsReadOnly
  intro s t k n hstep hk
  exact (step_nodesChange hstep).sameConfig hk

end Sys2Proof.Machine
end

section
/-! The delay on the wire (R73): an accepted FEED writes the current node, which stays the current node, so two FEEDs in a
row compose; the two delay bytes then assemble the 16-bit delay, the high one first (O25). -/
namespace Sys2Proof.Machine

/-- Writing the current node leaves it the current node, as written. -/
theorem IsCur.setNode {s : State} {k : Nat} {n : Node} (h : IsCur s k n) (n' : Node) :
    IsCur (setNode k n' s) k n' where
  cur := h.cur
  node := by
    obtain ⟨hlt, _⟩ := List.getElem?_eq_some_iff.mp h.node
    exact List.getElem?_set_self hlt

/-- A byte the current node accepts writes that node as its `feed` answers (R165). -/
theorem exec_feed_of_ok {s : State} {k : Nat} {n n' : Node} {b : Byte} (h : IsCur s k n) (hok : n.feed b = .ok n') :
    exec (.feed b) s = .next (setNode k n' s) := by
  simp only [exec, execFeed, callCur_eq h, hok]

/-- The high delay byte replaces the whole delay (R167). -/
theorem Node.feed_waitDelayHigh {n : Node} (h : n.state = .waitDelayHigh) (b : Byte) :
    n.feed b = .ok { n with delay := delayHigh b, state := .waitDelayLow } := by
  simp only [Node.feed, h]

/-- The low delay byte joins the delay that stands (R168). -/
theorem Node.feed_waitDelayLow {n : Node} (h : n.state = .waitDelayLow) (b : Byte) :
    n.feed b = .ok { n with delay := delayLow n.delay b, state := .waitNumSets } := by
  simp only [Node.feed, h]

/-- The high delay byte counts 256 and never overflows the 16-bit word. -/
theorem toNat_delayHigh (hi : Byte) : (delayHigh hi).toNat = hi.toNat <<< 8 := by
  have hlt : hi.toNat < 256 := hi.isLt
  rw [delayHigh, BitVec.toNat_shiftLeft, BitVec.toNat_setWidth_of_le (by decide), Nat.shiftLeft_eq]
  omega

/-- The low byte fills the eight bits the high byte leaves clear, so the or of the two bytes is their sum. -/
theorem toNat_delayLow_delayHigh (hi lo : Byte) :
    (delayLow (delayHigh hi) lo).toNat = hi.toNat * 256 + lo.toNat := by
  calc (delayLow (delayHigh hi) lo).toNat
      = hi.toNat <<< 8 ||| lo.toNat := by
        rw [delayLow, BitVec.toNat_or, toNat_delayHigh, BitVec.toNat_setWidth_of_le (by decide)]
    _ = hi.toNat <<< 8 + lo.toNat := (Nat.shiftLeft_add_eq_or_of_lt lo.isLt hi.toNat).symm
    _ = hi.toNat * 256 + lo.toNat := by rw [Nat.shiftLeft_eq]

/-- Two bytes fed to a node that awaits its delay leave it awaiting the set count, with the delay they assemble (R167,
R168). -/
theorem execAll_feed_delay {s : State} {k : Nat} {n : Node} (hcur : IsCur s k n) (hn : n.state = .waitDelayHigh)
    (hi lo : Byte) : ∃ t, execAll [.feed hi, .feed lo] s = .next t ∧
      IsCur t k { n with delay := delayLow (delayHigh hi) lo, state := .waitNumSets } := by
  have hhigh := Node.feed_waitDelayHigh hn hi
  have hmid := hcur.setNode { n with delay := delayHigh hi, state := .waitDelayLow }
  have hlow := Node.feed_waitDelayLow (n := { n with delay := delayHigh hi, state := .waitDelayLow }) rfl lo
  refine ⟨_, ?_, hmid.setNode _⟩
  rw [execAll_cons (exec_feed_of_ok hcur hhigh), execAll_cons (exec_feed_of_ok hmid hlow)]
  rfl

/-- Settles O25: the two accepted FEEDs compose, and the bytes they leave in the delay do not overlap. -/
theorem delayIsBigEndianOnTheWire : Obligations.DelayIsBigEndianOnTheWire := by
  unfold Obligations.DelayIsBigEndianOnTheWire
  intro s k n hi lo hcur hn
  obtain ⟨t, hrun, ht⟩ := execAll_feed_delay hcur hn hi lo
  exact ⟨t, _, hrun, ht.node, rfl, rfl, toNat_delayLow_delayHigh hi lo⟩

end Sys2Proof.Machine
end

section
/-! Decoder rows that accept their byte: the framing bytes that only move the decoder on (O9), the address byte (O11) and the
payload bytes fed to the node (O16). The row a byte class selects, and the state an accepting arm leaves after a node call,
are said once. -/
namespace Sys2Proof.Machine

/-! The row a byte class selects (R104). -/

theorem decodeByte_waitAddr_of_isAddrByte {b : Byte} (h : isAddrByte b = true) (now : Nat) :
    decodeByte .waitAddr b now = .addr (addrOfByte b) now := if_pos h

theorem decodeByte_waitRawData_of_isCtrl {b : Byte} (h : isCtrl b = true) (now : Nat) :
    decodeByte .waitRawData b now = .rawCtrl b now := if_pos h

theorem decodeByte_waitData_of_not_isCtrl {b : Byte} (h : ¬ isCtrl b = true) (now : Nat) :
    decodeByte .waitData b now = .dataByte b now := by
  simp only [isCtrl_iff, not_or] at h
  obtain ⟨hesc, hetx, hsyn, hstx⟩ := h
  simp only [decodeByte, hesc, hetx, hsyn, hstx, decide_false, Bool.or_self, Bool.false_eq_true, if_false]

/-- An accepting arm that calls the node counts its byte from the counter before the call, since the call leaves the
decoder (R120, R139). -/
theorem accept_callCur (q : DecState) (f : Node → Except ErrorKind Node) (s : State) :
    accept q (callCur f s) =
      { callCur f s with dec := { state := q, loc := s.dec.loc + 1, cur := s.dec.cur } } := by
  rw [accept, callCur_dec]

/-- A plain payload byte is a FEED, and then the decoder counts it and stays in WaitData (R136). -/
theorem exec_dataByte_eq_feed (b : Byte) (now : Nat) (s : State) : ∃ u, exec (.feed b) s = .next u ∧
    exec (.dataByte b now) s =
      .next { u with dec := { state := .waitData, loc := s.dec.loc + 1, cur := s.dec.cur } } :=
  ⟨callCur (Node.feed b) s, rfl, congrArg _ (accept_callCur .waitData (Node.feed b) s)⟩

/-- An escaped control byte has the meaning of a plain payload byte (R136, R137). -/
theorem exec_rawCtrl_eq_dataByte (b : Byte) (now : Nat) (s : State) :
    exec (.rawCtrl b now) s = exec (.dataByte b now) s := rfl

/-- Settles O9: each of the four rows is selected by its one byte and runs `accept` alone. -/
theorem expectedFramingBytesAdvance : Obligations.ExpectedFramingBytesAdvance := by
  unfold Obligations.ExpectedFramingBytesAdvance
  intro s now
  refine ⟨fun hq => ?_, fun hq => ?_, fun hq => ?_, fun hq => ?_⟩ <;> rw [hq] <;> exact ⟨rfl, rfl⟩

/-- Settles O11: the address is `addrOfByte`, which on an address byte is `b - 65` without wrapping. -/
theorem addressByteSelectsTheRegisteredNode : Obligations.AddressByteSelectsTheRegisteredNode := by
  unfold Obligations.AddressByteSelectsTheRegisteredNode
  intro s b now hq hlo hhi
  have haddr : isAddrByte b = true := (isAddrByte_iff b).mpr ⟨hlo, hhi⟩
  rw [hq]
  exact ⟨addrOfByte b, addrOfByte_val haddr, decodeByte_waitAddr_of_isAddrByte haddr now, rfl⟩

/-- Settles O16: outside CTRL in WaitData, inside it after an escape; both rows feed the byte itself. -/
theorem payloadBytesAreFed : Obligations.PayloadBytesAreFed := by
  unfold Obligations.PayloadBytesAreFed
  intro s b now
  constructor
  · intro hq hesc hetx hsyn hstx
    have hplain : ¬ isCtrl b = true := by simp only [isCtrl_iff, not_or]; exact ⟨hesc, hetx, hsyn, hstx⟩
    rw [hq]
    exact ⟨decodeByte_waitData_of_not_isCtrl hplain now, exec_dataByte_eq_feed b now s⟩
  · intro hq hctrl
    rw [hq, exec_rawCtrl_eq_dataByte]
    exact ⟨decodeByte_waitRawData_of_isCtrl ((isCtrl_iff b).mpr hctrl) now, exec_dataByte_eq_feed b now s⟩

end Sys2Proof.Machine
end

section
/-! The node automaton's control calls and the end of a frame, by state (R162 to R164, R175 to R178), and FEED where it sets up
the configuration or expects no byte (R166 to R169, R173). What an entry point answers in a state is said once, about the
node alone; two rules then carry an answer to the machine (O22, O23, O24, O28, O29). -/
namespace Sys2Proof.Machine

/-! The entry point's answer, carried to the machine. -/

/-- An accepted call of the current node writes that node and nothing else. -/
theorem callCur_of_ok {s : State} {k : Nat} {n n' : Node} {f : Node → Except ErrorKind Node} (h : IsCur s k n)
    (hok : f n = .ok n') : callCur f s = { s with nodes := s.nodes.set k n' } := by
  rw [callCur_eq h, hok]
  rfl

/-- A call the current node does not accept appends its report to the trace and changes nothing else (R179). -/
theorem callCur_of_error {s : State} {k : Nat} {n : Node} {e : ErrorKind} {f : Node → Except ErrorKind Node}
    (h : IsCur s k n) (herr : f n = .error e) :
    callCur f s = { s with trace := s.trace ++ [.nodeErr e k n.addr] } := by
  rw [callCur_eq h, herr]
  rfl

/-! The control calls (R162, R163, R164): one accepting state each, and the default arm R161. -/

theorem Node.init_waitInit {n : Node} (h : n.state = .waitInit) :
    n.init = .ok { n with state := .waitNodeDefParam } := by
  simp only [Node.init, h]

theorem Node.init_of_ne {n : Node} (h : n.state ≠ .waitInit) : n.init = .error .protocolError := by
  cases hs : n.state
  case waitInit => exact absurd hs h
  all_goals simp only [Node.init, hs]

theorem Node.poll_waitPoll {n : Node} (h : n.state = .waitPoll) : n.poll = .ok { n with state := .waitEndPoll } := by
  simp only [Node.poll, h]

theorem Node.poll_of_ne {n : Node} (h : n.state ≠ .waitPoll) : n.poll = .error .protocolError := by
  cases hs : n.state
  case waitPoll => exact absurd hs h
  all_goals simp only [Node.poll, hs]

theorem Node.transmit_waitTransmit {n : Node} (h : n.state = .waitTransmit) :
    n.transmit = .ok { n with index := 0, state := .doTransmit } := by
  simp only [Node.transmit, h]

theorem Node.transmit_of_ne {n : Node} (h : n.state ≠ .waitTransmit) : n.transmit = .error .protocolError := by
  cases hs : n.state
  case waitTransmit => exact absurd hs h
  all_goals simp only [Node.transmit, hs]

/-- Settles O22: each call has one accepting state, and every other state takes the default arm. -/
theorem controlCallsAreAcceptedInOneState : Obligations.ControlCallsAreAcceptedInOneState := by
  unfold Obligations.ControlCallsAreAcceptedInOneState
  intro s k n hcur
  refine ⟨fun hq => ?_, fun hq => ?_, fun hq => ?_, fun hq => ?_, fun hq => ?_, fun hq => ?_⟩
  · exact congrArg _ (callCur_of_ok hcur (Node.init_waitInit hq))
  · exact congrArg _ (callCur_of_error hcur (Node.init_of_ne hq))
  · exact congrArg _ (callCur_of_ok hcur (Node.poll_waitPoll hq))
  · exact congrArg _ (callCur_of_error hcur (Node.poll_of_ne hq))
  · exact congrArg _ (callCur_of_ok hcur (Node.transmit_waitTransmit hq))
  · exact congrArg _ (callCur_of_error hcur (Node.transmit_of_ne hq))

/-! FEED outside the vectors and the init sets. -/

/-- The type identifier decides between the next state and a WrongType report (R166). -/
theorem Node.feed_waitNodeDefParam {n : Node} (h : n.state = .waitNodeDefParam) (b : Byte) :
    n.feed b = if b = n.typeId then .ok { n with state := .waitDelayHigh } else .error .wrongType := by
  simp only [Node.feed, h]

/-- The set count starts the init sets at index 0 (R169). -/
theorem Node.feed_waitNumSets {n : Node} (h : n.state = .waitNumSets) (b : Byte) :
    n.feed b = .ok { n with numSets := b, index := 0, state := .doInit } := by
  simp only [Node.feed, h]

/-- The six states that expect no payload (R173). -/
theorem Node.feed_of_no_payload {n : Node} (b : Byte)
    (h : n.state ∈ [.waitInit, .waitPoll, .waitEndPoll, .waitDelay, .doReceive, .waitTransmit]) :
    n.feed b = .error .protocolError := by
  simp only [List.mem_cons, List.not_mem_nil, or_false] at h
  rcases h with hq | hq | hq | hq | hq | hq <;> simp only [Node.feed, hq]

/-- Settles O23: the two branches of the comparison with the node's own identifier. -/
theorem feedChecksTheTypeIdentifier : Obligations.FeedChecksTheTypeIdentifier := by
  unfold Obligations.FeedChecksTheTypeIdentifier
  intro s k n b hcur hq
  have hfeed := Node.feed_waitNodeDefParam hq b
  constructor
  · intro hb
    exact congrArg _ (callCur_of_ok hcur (hfeed.trans (if_pos hb)))
  · intro hb
    exact congrArg _ (callCur_of_error hcur (hfeed.trans (if_neg hb)))

/-- Settles O24: the three accepting arms; `delayHigh` and `delayLow` are the 16-bit expressions of R167 and R168. -/
theorem feedLoadsDelayAndSetCount : Obligations.FeedLoadsDelayAndSetCount := by
  unfold Obligations.FeedLoadsDelayAndSetCount
  intro s k n b hcur
  refine ⟨fun hq => ?_, fun hq => ?_, fun hq => ?_⟩
  · exact exec_feed_of_ok hcur (Node.feed_waitDelayHigh hq b)
  · exact exec_feed_of_ok hcur (Node.feed_waitDelayLow hq b)
  · exact exec_feed_of_ok hcur (Node.feed_waitNumSets hq b)

/-- Settles O28: the node answers ProtocolError in each of the six states. -/
theorem feedElsewhereIsAProtocolError : Obligations.FeedElsewhereIsAProtocolError := by
  unfold Obligations.FeedElsewhereIsAProtocolError
  intro s k n b hcur hq
  exact congrArg _ (callCur_of_error hcur (Node.feed_of_no_payload b hq))

/-! The end of a frame. -/

/-- The end of an init frame is accepted once every announced set has arrived (R175). -/
theorem Node.endOfFrame_doInit {n : Node} (h : n.state = .doInit) (now : Nat) :
    n.endOfFrame now =
      if n.index = n.numSets.toNat then .ok { n with state := .waitPoll } else .error .initError := by
  simp only [Node.endOfFrame, h, setsComplete_iff]

/-- The end of a poll frame starts the delay (R176). -/
theorem Node.endOfFrame_waitEndPoll {n : Node} (h : n.state = .waitEndPoll) (now : Nat) :
    n.endOfFrame now = .ok { n with delayStart := now, state := .waitDelay } := by
  simp only [Node.endOfFrame, h]

/-- The end of a transmit frame returns the node to the poll (R177). -/
theorem Node.endOfFrame_doTransmit {n : Node} (h : n.state = .doTransmit) (now : Nat) :
    n.endOfFrame now = .ok { n with state := .waitPoll } := by
  simp only [Node.endOfFrame, h]

/-- The nine states in which no frame can end (R178). -/
theorem Node.endOfFrame_of_no_frame {n : Node} (now : Nat)
    (h : n.state ∈ [.waitInit, .waitNodeDefParam, .waitDelayHigh, .waitDelayLow, .waitNumSets, .waitPoll, .waitDelay,
      .doReceive, .waitTransmit]) : n.endOfFrame now = .error .protocolError := by
  simp only [List.mem_cons, List.not_mem_nil, or_false] at h
  rcases h with hq | hq | hq | hq | hq | hq | hq | hq | hq <;> simp only [Node.endOfFrame, hq]

/-- Settles O29: an answer per state, and in DoInit one per branch of the comparison of `index` with the set count. -/
theorem endOfFrameByNodeState : Obligations.EndOfFrameByNodeState := by
  unfold Obligations.EndOfFrameByNodeState
  intro s k n now hcur
  refine ⟨fun hq hall => ?_, fun hq hmissing => ?_, fun hq => ?_, fun hq => ?_, fun hq => ?_⟩
  · exact congrArg _ (callCur_of_ok hcur ((Node.endOfFrame_doInit hq now).trans (if_pos hall)))
  · exact congrArg _ (callCur_of_error hcur ((Node.endOfFrame_doInit hq now).trans (if_neg hmissing)))
  · exact congrArg _ (callCur_of_ok hcur (Node.endOfFrame_waitEndPoll hq now))
  · exact congrArg _ (callCur_of_ok hcur (Node.endOfFrame_doTransmit hq now))
  · exact congrArg _ (callCur_of_error hcur (Node.endOfFrame_of_no_frame now hq))

end Sys2Proof.Machine
end

section
/-! The vectors (R200 to R203): what the bounds-checked accessors of one node read and write, how `readVec` sees a written
node, and from these the reads (O40) and the writes with their frame (O41). -/
namespace Sys2Proof.Machine

/-! The accessors inside and outside the byte count. -/

theorem Node.inRead_of_lt {n : Node} {i : Nat} (h : i < n.inBytes) : n.inRead i = n.inVec.read i := if_pos h

theorem Node.inRead_of_le {n : Node} {i : Nat} (h : n.inBytes ≤ i) : n.inRead i = 0x00#8 := if_neg (Nat.not_lt.mpr h)

theorem Node.outRead_of_lt {n : Node} {i : Nat} (h : i < n.outBytes) : n.outRead i = n.outVec.read i := if_pos h

theorem Node.outRead_of_le {n : Node} {i : Nat} (h : n.outBytes ≤ i) : n.outRead i = 0x00#8 := if_neg (Nat.not_lt.mpr h)

theorem Node.inWrite_of_lt {n : Node} {i : Nat} (h : i < n.inBytes) (v : Byte) :
    n.inWrite i v = { n with inVec := n.inVec.write i v } := if_pos h

theorem Node.inWrite_of_le {n : Node} {i : Nat} (h : n.inBytes ≤ i) (v : Byte) : n.inWrite i v = n :=
  if_neg (Nat.not_lt.mpr h)

theorem Node.outWrite_of_lt {n : Node} {i : Nat} (h : i < n.outBytes) (v : Byte) :
    n.outWrite i v = { n with outVec := n.outVec.write i v } := if_pos h

theorem Node.outWrite_of_le {n : Node} {i : Nat} (h : n.outBytes ≤ i) (v : Byte) : n.outWrite i v = n :=
  if_neg (Nat.not_lt.mpr h)

/-! Reading one node after a write of it. -/

/-- One byte of a node by side, as `State.readVec` reads it. -/
def Node.vecRead (n : Node) : Side → Nat → Byte
  | .inp, i => n.inRead i
  | .out, i => n.outRead i

theorem Node.vecRead_inWrite_same {n : Node} {i : Nat} (h : i < n.inBytes) (hwf : n.inVec.wf) (v : Byte) :
    (n.inWrite i v).vecRead .inp i = v := by
  rw [inWrite_of_lt h]
  simp only [vecRead, inRead, if_pos h, Memory.read_write_same i v hwf]

theorem Node.vecRead_outWrite_same {n : Node} {i : Nat} (h : i < n.outBytes) (hwf : n.outVec.wf) (v : Byte) :
    (n.outWrite i v).vecRead .out i = v := by
  rw [outWrite_of_lt h]
  simp only [vecRead, outRead, if_pos h, Memory.read_write_same i v hwf]

theorem Node.vecRead_inWrite_other {n : Node} {i j : Nat} {side : Side} (v : Byte) (h : ¬ (side = .inp ∧ j = i)) :
    (n.inWrite i v).vecRead side j = n.vecRead side j := by
  rcases Nat.lt_or_ge i n.inBytes with hi | hi
  · rw [inWrite_of_lt hi]
    cases side with
    | inp => simp only [vecRead, inRead, Memory.read_write_other v fun hj => h ⟨rfl, hj⟩]
    | out => rfl
  · rw [inWrite_of_le hi]

theorem Node.vecRead_outWrite_other {n : Node} {i j : Nat} {side : Side} (v : Byte) (h : ¬ (side = .out ∧ j = i)) :
    (n.outWrite i v).vecRead side j = n.vecRead side j := by
  rcases Nat.lt_or_ge i n.outBytes with hi | hi
  · rw [outWrite_of_lt hi]
    cases side with
    | inp => rfl
    | out => simp only [vecRead, outRead, Memory.read_write_other v fun hj => h ⟨rfl, hj⟩]
  · rw [outWrite_of_le hi]

/-- An input write changes no field but the input vector. -/
theorem Node.inWrite_with_inVec (n : Node) (i : Nat) (v : Byte) : { n.inWrite i v with inVec := n.inVec } = n := by
  unfold inWrite
  split <;> rfl

/-- An output write changes no field but the output vector. -/
theorem Node.outWrite_with_outVec (n : Node) (i : Nat) (v : Byte) : { n.outWrite i v with outVec := n.outVec } = n := by
  unfold outWrite
  split <;> rfl

/-! Reading the machine after a node is written. -/

/-- The vectors of a node that exists are read from that node. -/
theorem readVec_of_node {s : State} {k : Nat} {n : Node} (h : s.nodes[k]? = some n) (side : Side) (i : Nat) :
    s.readVec k side i = n.vecRead side i := by
  cases side <;> simp only [State.readVec, h, Node.vecRead]

/-- A node that exists and is written reads as written. -/
theorem readVec_setNode_same {s : State} {k : Nat} {n : Node} (h : s.nodes[k]? = some n) (n' : Node) (side : Side)
    (i : Nat) : (setNode k n' s).readVec k side i = n'.vecRead side i := by
  obtain ⟨hlt, _⟩ := List.getElem?_eq_some_iff.mp h
  exact readVec_of_node (List.getElem?_set_self hlt) side i

/-- Writing a node leaves the vectors of every other node. -/
theorem readVec_setNode_other {s : State} {k k' : Nat} (h : k' ≠ k) (n' : Node) (side : Side) (i : Nat) :
    (setNode k n' s).readVec k' side i = s.readVec k' side i := by
  simp only [State.readVec, setNode_nodes, List.getElem?_set_ne h.symm]

/-- A byte on which the written node agrees with the old one stays, and so does every byte of the other nodes. -/
theorem readVec_setNode_of_agree {s : State} {k k' j : Nat} {n n' : Node} {side : Side} (h : s.nodes[k]? = some n)
    (hagree : k' = k → n'.vecRead side j = n.vecRead side j) :
    (setNode k n' s).readVec k' side j = s.readVec k' side j := by
  by_cases hk : k' = k
  · rw [hk, readVec_setNode_same h, readVec_of_node h, hagree hk]
  · exact readVec_setNode_other hk n' side j

/-- Writing a node back changes nothing. -/
theorem setNode_self {s : State} {k : Nat} {n : Node} (h : s.nodes[k]? = some n) : setNode k n s = s := by
  obtain ⟨hlt, rfl⟩ := List.getElem?_eq_some_iff.mp h
  rw [setNode, List.set_getElem_self]

/-! The four accesses of a node that exists. -/

theorem exec_inRead {s : State} {k : Nat} {n : Node} (h : s.nodes[k]? = some n) (i : Nat) :
    exec (.inRead k i) s = .next { s with returns := s.returns ++ [.value (n.inRead i)] } := withNode_some h _

theorem exec_outRead {s : State} {k : Nat} {n : Node} (h : s.nodes[k]? = some n) (i : Nat) :
    exec (.outRead k i) s = .next { s with returns := s.returns ++ [.value (n.outRead i)] } := withNode_some h _

theorem exec_inWrite {s : State} {k : Nat} {n : Node} (h : s.nodes[k]? = some n) (i : Nat) (v : Byte) :
    exec (.inWrite k i v) s = .next (setNode k (n.inWrite i v) s) := withNode_some h _

theorem exec_outWrite {s : State} {k : Nat} {n : Node} (h : s.nodes[k]? = some n) (i : Nat) (v : Byte) :
    exec (.outWrite k i v) s = .next (setNode k (n.outWrite i v) s) := withNode_some h _

/-- Settles O40: each read reports what the bounds-checked accessor of the node reads. -/
theorem vectorReadsReturnTheByteOrZero : Obligations.VectorReadsReturnTheByteOrZero := by
  unfold Obligations.VectorReadsReturnTheByteOrZero
  intro s k n i hk
  rw [exec_inRead hk, exec_outRead hk]
  refine ⟨fun hi => ?_, fun hi => ?_, fun hi => ?_, fun hi => ?_⟩
  · rw [Node.inRead_of_lt hi]
  · rw [Node.inRead_of_le hi]
  · rw [Node.outRead_of_lt hi]
  · rw [Node.outRead_of_le hi]

/-- Settles O41: a write inside sets the node, whose vectors agree with the old ones but at the written byte; a write outside
puts the node back as it was. -/
theorem vectorWritesStoreOrAreIgnored : Obligations.VectorWritesStoreOrAreIgnored := by
  unfold Obligations.VectorWritesStoreOrAreIgnored
  intro s k n i v hk hin hout
  refine ⟨fun hi => ?_, fun hi => ?_, fun hi => ?_, fun hi => ?_⟩
  · refine ⟨_, n.inWrite i v, exec_inWrite hk i v, rfl, n.inWrite_with_inVec i v, ?_, fun k' side j hne => ?_⟩
    · exact (readVec_setNode_same hk _ _ _).trans (Node.vecRead_inWrite_same hi hin v)
    · exact readVec_setNode_of_agree hk fun hk' =>
        Node.vecRead_inWrite_other v fun ⟨hside, hj⟩ => hne ⟨hk', hside, hj⟩
  · rw [exec_inWrite hk, Node.inWrite_of_le hi, setNode_self hk]
  · refine ⟨_, n.outWrite i v, exec_outWrite hk i v, rfl, n.outWrite_with_outVec i v, ?_, fun k' side j hne => ?_⟩
    · exact (readVec_setNode_same hk _ _ _).trans (Node.vecRead_outWrite_same hi hout v)
    · exact readVec_setNode_of_agree hk fun hk' =>
        Node.vecRead_outWrite_other v fun ⟨hside, hj⟩ => hne ⟨hk', hside, hj⟩
  · rw [exec_outWrite hk, Node.outWrite_of_le hi, setNode_self hk]

end Sys2Proof.Machine
end

section
/-! The end of the response (R194): of the things a step of a node can do, DoReceive with no byte left leaves one (O35). -/
namespace Sys2Proof.Machine

/-- With every input byte sent the node awaits its transmit frame, and the step reports finished. -/
theorem stepNode_doReceive_of_le {n : Node} (hq : n.state = .doReceive) (hi : n.inBytes ≤ n.index) (k now : Nat)
    (s : State) : stepNode k now n s = report (.finished k true) (setNode k { n with state := .waitTransmit } s) := by
  rcases stepNode_cases k now n s with ⟨hdelay, _⟩ | ⟨_, hlt, _⟩ | ⟨_, _, hstep⟩ | ⟨_, hne, _⟩
  · rw [hq] at hdelay
    cases hdelay
  · exact absurd hlt (Nat.not_lt.mpr hi)
  · exact hstep
  · exact absurd hq hne

/-- Settles O35: STEP runs `stepNode` on the named node, which has no byte left to send. -/
theorem stepFinishesTheResponse : Obligations.StepFinishesTheResponse := by
  unfold Obligations.StepFinishesTheResponse
  intro s k n now hk hq hi
  calc exec (.step k now) s
      = .next (stepNode k now n s) := withNode_some hk _
    _ = _ := congrArg _ (stepNode_doReceive_of_le hq hi k now s)

end Sys2Proof.Machine
end

section
/-! The registry's LOOKUP (R214): it reports the entry of an address and does nothing else (O47). -/
namespace Sys2Proof.Machine

theorem exec_lookup (a : Addr) (s : State) : exec (.lookup a) s = .next (report (.found (lookupReg a s)) s) := rfl

/-- Settles O47: LOOKUP only reports, and what it reports is the registry's entry. -/
theorem lookupReturnsTheEntry : Obligations.LookupReturnsTheEntry := by
  unfold Obligations.LookupReturnsTheEntry
  intro s a
  calc exec (.lookup a) s
      = .next (report (.found (lookupReg a s)) s) := exec_lookup a s
    _ = .next { s with returns := s.returns ++ [.found (s.reg.get a)] } := by rw [report, lookupReg]

end Sys2Proof.Machine
end

section
/-! Error reports (R227): what a transaction appends to the trace, said once for every instruction, and with each report what
the transaction leaves as it was (O53). -/
namespace Sys2Proof.Machine

/-- What a transaction from `s` to `t` can add to the trace: nothing, one event to the host channel (R191, R193), the report
of a byte the decoder rejects (R224), or the report of a node, which changes at most the decoder besides (R225). -/
inductive Emission (s : State) : State → Prop where
  | quiet {t} (htrace : t.trace = s.trace) : Emission s t
  | txBegin {t} {k : Nat} {a : Addr} (htrace : t.trace = s.trace ++ [.txBegin k a]) : Emission s t
  | txByte {t} {k : Nat} {b : Byte} (htrace : t.trace = s.trace ++ [.txByte k b]) : Emission s t
  | rejected (kind : ErrorKind) : Emission s (rejectByte kind s)
  | nodeReport {t} {kind : ErrorKind} {k : Nat} {a : Addr} (htrace : t.trace = s.trace ++ [.nodeErr kind k a])
      (hnodes : t.nodes = s.nodes) (hout : SameOutside s t) : Emission s t

/-! The two kinds of report, read off the trace. -/

theorem Emission.of_decErr {s t : State} {kind : ErrorKind} {l : Nat} (h : Emission s t)
    (ht : t.trace = s.trace ++ [.decErr kind l]) : t = rejectByte kind s := by
  cases h with
  | quiet htrace | txBegin htrace | txByte htrace | nodeReport htrace => simp [htrace] at ht
  | rejected kind' =>
    obtain ⟨rfl, _⟩ : kind' = kind ∧ s.dec.loc + 1 = l := by simpa using ht
    rfl

theorem Emission.of_nodeErr {s t : State} {kind : ErrorKind} {k : Nat} {a : Addr} (h : Emission s t)
    (ht : t.trace = s.trace ++ [.nodeErr kind k a]) : t.nodes = s.nodes ∧ SameOutside s t := by
  cases h with
  | quiet htrace | txBegin htrace | txByte htrace => simp [htrace] at ht
  | rejected => simp at ht
  | nodeReport _ hnodes hout => exact ⟨hnodes, hout⟩

/-! What each instruction emits. -/

/-- A node call emits at most the node's report, whatever an arm writes to the decoder after it (R139, R179). -/
theorem callCur_emission (f : Node → Except ErrorKind Node) (s : State) (d : Dec) :
    Emission s { callCur f s with dec := d } := by
  rcases callCur_cases f s with h | ⟨_, _, _, _, _, h⟩ | ⟨_, _, _, _, _, h⟩ <;> rw [h]
  · exact .quiet rfl
  · exact .quiet rfl
  · exact .nodeReport rfl rfl ⟨rfl, rfl, rfl, rfl, rfl, rfl⟩

/-- A wire byte is accepted in silence, rejected, or handed to the current node (R121 to R138). -/
theorem consume_emission (b : Byte) (now : Nat) (s : State) : Emission s (consume b now s) := by
  unfold consume
  cases s.dec.state with
  | waitSync1 | waitSync2 | waitStx | waitAddr =>
    dsimp only
    split
    · exact .quiet rfl
    · exact .rejected _
  | waitType =>
    dsimp only
    split_ifs
    · exact callCur_emission Node.init s _
    · exact callCur_emission Node.poll s _
    · exact callCur_emission Node.transmit s _
    · exact .rejected _
  | waitData =>
    dsimp only
    split_ifs
    · exact .quiet rfl
    · exact callCur_emission (Node.endOfFrame now) s _
    · exact .rejected _
    · exact callCur_emission (Node.feed b) s _
  | waitRawData =>
    dsimp only
    split
    · exact callCur_emission (Node.feed b) s _
    · exact .rejected _

/-- A time-driven step raises no error. -/
theorem stepNode_emission (k now : Nat) (n : Node) (s : State) : Emission s (stepNode k now n s) := by
  rcases stepNode_cases k now n s with ⟨_, _, h⟩ | ⟨_, _, h⟩ | ⟨_, _, h⟩ | ⟨_, _, h⟩ <;> rw [h]
  · exact .txBegin rfl
  · exact .txByte rfl
  · exact .quiet rfl
  · exact .quiet rfl

/-- Registering emits nothing; a refused registration is a returned value (R211). -/
@[simp] theorem registerAt_trace (k : Nat) (a : Addr) (s : State) : (registerAt k a s).trace = s.trace := by
  rcases registerAt_cases k a s with ⟨_, h⟩ | ⟨_, h⟩ <;> rw [h] <;> rfl

/-- An operation that names a node emits what its body does. -/
theorem withNode_emission {k : Nat} {s t : State} {f : Node → State} (h : withNode k s f = .next t)
    (hf : ∀ n, Emission s (f n)) : Emission s t := by
  obtain ⟨n, _, rfl⟩ := withNode_next h
  exact hf n

/-- What every instruction can add to the trace. -/
theorem exec_emission {i : Instr} {s t : State} (h : exec i s = .next t) : Emission s t := by
  cases i with
  | sync1 | sync2 | stx | addr | dataEsc | lookup => cases h; exact .quiet rfl
  | sync1Err | sync2Err | stxErr | addrErr | typeErr | dataCtrlErr | rawErr => cases h; exact .rejected _
  | typeInit | init => cases h; exact callCur_emission Node.init s _
  | typePoll | poll => cases h; exact callCur_emission Node.poll s _
  | typeTransmit | transmit => cases h; exact callCur_emission Node.transmit s _
  | dataByte b | rawCtrl b | feed b => cases h; exact callCur_emission (Node.feed b) s _
  | dataEtx now | endOfFrame now => cases h; exact callCur_emission (Node.endOfFrame now) s _
  | consume b now => cases h; exact consume_emission b now s
  | step k now => exact withNode_emission h fun n => stepNode_emission k now n s
  | inRead | outRead | appReadOut | inWrite | appWriteIn | outWrite => exact withNode_emission h fun _ => .quiet rfl
  | register k => exact withNode_emission h fun n => .quiet (registerAt_trace k n.addr s)
  | construct d =>
    obtain ⟨_, _, rfl⟩ := execConstruct_next h
    exact .quiet (registerAt_trace _ _ _)

/-- Settles O53: a decoder report leaves the state `rejectByte` answers, and a node report leaves the nodes and all outside
the decoder and the trace. -/
theorem reportsChangeOnlyTheTrace : Obligations.ReportsChangeOnlyTheTrace := by
  unfold Obligations.ReportsChangeOnlyTheTrace
  intro i s t hexec
  have hemit := exec_emission hexec
  constructor
  · intro kind l ht
    obtain rfl := hemit.of_decErr ht
    exact ⟨rfl, ⟨rfl, rfl, rfl, rfl, rfl, rfl⟩, rfl⟩
  · intro kind k a ht
    exact hemit.of_nodeErr ht

end Sys2Proof.Machine
end

section
/-! The encoding (R104, R105): the row that each byte class selects, from it that decoder and encoder are inverse to each other
(O1, O2), the opcode map written out (O3, O4), and the rows that report their byte (O10, O12, O15). -/
namespace Sys2Proof.Machine

/-! The row a byte class selects (R104), beside those the accepting rows needed. -/

theorem decodeByte_waitSync1_of_ne {b : Byte} (h : b ≠ SYN) (now : Nat) :
    decodeByte .waitSync1 b now = .sync1Err b now := if_neg h

theorem decodeByte_waitSync2_of_ne {b : Byte} (h : b ≠ SYN) (now : Nat) :
    decodeByte .waitSync2 b now = .sync2Err b now := if_neg h

theorem decodeByte_waitStx_of_ne {b : Byte} (h : b ≠ STX) (now : Nat) :
    decodeByte .waitStx b now = .stxErr b now := if_neg h

theorem decodeByte_waitAddr_of_not_isAddrByte {b : Byte} (h : ¬ isAddrByte b = true) (now : Nat) :
    decodeByte .waitAddr b now = .addrErr b now := if_neg h

theorem decodeByte_waitAddr_byteOfAddr (a : Addr) (now : Nat) :
    decodeByte .waitAddr (byteOfAddr a) now = .addr a now := by
  rw [decodeByte_waitAddr_of_isAddrByte (isAddrByte_byteOfAddr a), addrOfByte_byteOfAddr]

theorem decodeByte_waitType_of_not_isTypeByte {b : Byte} (h : ¬ isTypeByte b = true) (now : Nat) :
    decodeByte .waitType b now = .typeErr b now := by
  simp only [isTypeByte_iff, not_or] at h
  obtain ⟨hi, hp, ht⟩ := h
  simp only [decodeByte, hi, hp, ht, if_false]

theorem decodeByte_waitData_of_framing {b : Byte} (h : b = SYN ∨ b = STX) (now : Nat) :
    decodeByte .waitData b now = .dataCtrlErr b now := by
  rcases h with rfl | rfl <;> rfl

theorem decodeByte_waitRawData_of_not_isCtrl {b : Byte} (h : ¬ isCtrl b = true) (now : Nat) :
    decodeByte .waitRawData b now = .rawErr b now := if_neg h

/-! The byte class of a row, as a proposition. -/

theorem wellFormed_sync1Err {b : Byte} {now : Nat} : WellFormed (.sync1Err b now) ↔ b ≠ SYN := decide_eq_true_iff

theorem wellFormed_sync2Err {b : Byte} {now : Nat} : WellFormed (.sync2Err b now) ↔ b ≠ SYN := decide_eq_true_iff

theorem wellFormed_stxErr {b : Byte} {now : Nat} : WellFormed (.stxErr b now) ↔ b ≠ STX := decide_eq_true_iff

theorem wellFormed_addrErr {b : Byte} {now : Nat} : WellFormed (.addrErr b now) ↔ ¬ isAddrByte b = true := by
  simp only [WellFormed, Instr.wellFormed, Bool.not_eq_true', Bool.not_eq_true]

theorem wellFormed_typeErr {b : Byte} {now : Nat} : WellFormed (.typeErr b now) ↔ ¬ isTypeByte b = true := by
  simp only [WellFormed, Instr.wellFormed, Bool.not_eq_true', Bool.not_eq_true]

theorem wellFormed_dataCtrlErr {b : Byte} {now : Nat} : WellFormed (.dataCtrlErr b now) ↔ b = SYN ∨ b = STX := by
  simp only [WellFormed, Instr.wellFormed, Bool.or_eq_true, decide_eq_true_eq]

theorem wellFormed_dataByte {b : Byte} {now : Nat} : WellFormed (.dataByte b now) ↔ ¬ isCtrl b = true := by
  simp only [WellFormed, Instr.wellFormed, Bool.not_eq_true', Bool.not_eq_true]

theorem wellFormed_rawErr {b : Byte} {now : Nat} : WellFormed (.rawErr b now) ↔ ¬ isCtrl b = true := by
  simp only [WellFormed, Instr.wellFormed, Bool.not_eq_true', Bool.not_eq_true]

/-! Decoding what was encoded. -/

/-- A decoder row is read back in its own decoder state: its byte lies in its row's class. -/
theorem decode_encode_of_row {i : Instr} {q : DecState} (hwf : WellFormed i) (hq : rowState i = some q) :
    decode q (encode i) = .ok i := by
  cases i <;> cases hq
  case sync1 | sync2 | stx | typeInit | typePoll | typeTransmit | dataEsc | dataEtx => rfl
  case sync1Err => exact congrArg _ (decodeByte_waitSync1_of_ne (wellFormed_sync1Err.mp hwf) _)
  case sync2Err => exact congrArg _ (decodeByte_waitSync2_of_ne (wellFormed_sync2Err.mp hwf) _)
  case stxErr => exact congrArg _ (decodeByte_waitStx_of_ne (wellFormed_stxErr.mp hwf) _)
  case addr => exact congrArg _ (decodeByte_waitAddr_byteOfAddr _ _)
  case addrErr => exact congrArg _ (decodeByte_waitAddr_of_not_isAddrByte (wellFormed_addrErr.mp hwf) _)
  case typeErr => exact congrArg _ (decodeByte_waitType_of_not_isTypeByte (wellFormed_typeErr.mp hwf) _)
  case dataCtrlErr => exact congrArg _ (decodeByte_waitData_of_framing (wellFormed_dataCtrlErr.mp hwf) _)
  case dataByte => exact congrArg _ (decodeByte_waitData_of_not_isCtrl (wellFormed_dataByte.mp hwf) _)
  case rawCtrl => exact congrArg _ (decodeByte_waitRawData_of_isCtrl hwf _)
  case rawErr => exact congrArg _ (decodeByte_waitRawData_of_not_isCtrl (wellFormed_rawErr.mp hwf) _)

/-- A call is read back in every decoder state. -/
theorem decode_encode_of_call {i : Instr} (q : DecState) (hwf : WellFormed i) (hq : rowState i = none) :
    decode q (encode i) = .ok i := by
  cases i <;> cases hq
  case construct d =>
    have hok : d.problem = none := of_decide_eq_true hwf
    simp only [encode, decode, decodeCall, hok]
  all_goals rfl

/-- Settles O1: a decoder row by its byte class, a call by its name. -/
theorem decodeOfEncodeIsTheInstruction : Obligations.DecodeOfEncodeIsTheInstruction := by
  unfold Obligations.DecodeOfEncodeIsTheInstruction
  intro i q hwf hq
  cases hr : rowState i with
  | some p => rw [hq p hr]; exact decode_encode_of_row hwf hr
  | none => exact decode_encode_of_call q hwf hr

/-! Encoding what was decoded. -/

/-- In decoder state `q` the input `x` is the encoding of `i`, which is well formed and no row of another state. -/
structure Denotes (q : DecState) (x : Input) (i : Instr) : Prop where
  encoded    : encode i = x
  wellFormed : WellFormed i
  row        : ∀ p, rowState i = some p → p = q

theorem Denotes.of_row {q : DecState} {x : Input} {i : Instr} (he : encode i = x) (hwf : WellFormed i)
    (hq : rowState i = some q) : Denotes q x i where
  encoded := he
  wellFormed := hwf
  row := fun _ hp => Option.some.inj (hp.symm.trans hq)

theorem Denotes.of_call {q : DecState} {x : Input} {i : Instr} (he : encode i = x) (hwf : WellFormed i)
    (hq : rowState i = none) : Denotes q x i where
  encoded := he
  wellFormed := hwf
  row := fun _ hp => by rw [hq] at hp; cases hp

/-- A wire byte is the byte its row is written with, in each of the two to four classes of the decoder state. -/
theorem decodeByte_denotes (q : DecState) (b : Byte) (now : Nat) : Denotes q (.byte b now) (decodeByte q b now) := by
  cases q with
  | waitSync1 =>
    by_cases hb : b = SYN
    · subst hb; exact .of_row rfl rfl rfl
    · rw [decodeByte_waitSync1_of_ne hb]; exact .of_row rfl (wellFormed_sync1Err.mpr hb) rfl
  | waitSync2 =>
    by_cases hb : b = SYN
    · subst hb; exact .of_row rfl rfl rfl
    · rw [decodeByte_waitSync2_of_ne hb]; exact .of_row rfl (wellFormed_sync2Err.mpr hb) rfl
  | waitStx =>
    by_cases hb : b = STX
    · subst hb; exact .of_row rfl rfl rfl
    · rw [decodeByte_waitStx_of_ne hb]; exact .of_row rfl (wellFormed_stxErr.mpr hb) rfl
  | waitAddr =>
    by_cases hb : isAddrByte b = true
    · rw [decodeByte_waitAddr_of_isAddrByte hb]
      exact .of_row (congrArg (Input.byte · now) (byteOfAddr_addrOfByte hb)) rfl rfl
    · rw [decodeByte_waitAddr_of_not_isAddrByte hb]; exact .of_row rfl (wellFormed_addrErr.mpr hb) rfl
  | waitType =>
    by_cases hb : isTypeByte b = true
    · rcases (isTypeByte_iff b).mp hb with rfl | rfl | rfl <;> exact .of_row rfl rfl rfl
    · rw [decodeByte_waitType_of_not_isTypeByte hb]; exact .of_row rfl (wellFormed_typeErr.mpr hb) rfl
  | waitData =>
    by_cases hb : isCtrl b = true
    · rcases (isCtrl_iff b).mp hb with rfl | rfl | rfl | rfl <;> exact .of_row rfl rfl rfl
    · rw [decodeByte_waitData_of_not_isCtrl hb]; exact .of_row rfl (wellFormed_dataByte.mpr hb) rfl
  | waitRawData =>
    by_cases hb : isCtrl b = true
    · rw [decodeByte_waitRawData_of_isCtrl hb]; exact .of_row rfl hb rfl
    · rw [decodeByte_waitRawData_of_not_isCtrl hb]; exact .of_row rfl (wellFormed_rawErr.mpr hb) rfl

/-- A call is the operation it names; a descriptor is accepted only as a configuration (R215). -/
theorem decodeCall_denotes (q : DecState) {c : Call} {i : Instr} (h : decodeCall c = .ok i) :
    Denotes q (.call c) i := by
  cases c with
  | construct d =>
    cases hd : d.problem with
    | none =>
      simp only [decodeCall, hd, Except.ok.injEq] at h
      subst h
      exact .of_call rfl (decide_eq_true hd) rfl
    | some r => simp only [decodeCall, hd, reduceCtorEq] at h
  | _ => cases h; exact .of_call rfl rfl rfl

theorem decode_denotes {q : DecState} {x : Input} {i : Instr} (h : decode q x = .ok i) : Denotes q x i := by
  cases x with
  | byte b now => cases h; exact decodeByte_denotes q b now
  | call c => exact decodeCall_denotes q h
  | reenter | attachDecoder => cases h

/-- Settles O2: a wire byte by the classes of the decoder state, a call by its name. -/
theorem decodedInputIsItsEncoding : Obligations.DecodedInputIsItsEncoding := by
  unfold Obligations.DecodedInputIsItsEncoding
  intro q x i h
  obtain ⟨he, hwf, hrow⟩ := decode_denotes h
  exact ⟨he, hwf, hrow⟩

/-! The opcode map, and the rows that report their byte. -/

/-- Outside 0x41..0xC0 no byte is an address byte (R94). -/
theorem not_isAddrByte {b : Byte} (h : b.toNat < 0x41 ∨ 0xC0 < b.toNat) : ¬ isAddrByte b = true := by
  rw [isAddrByte_iff]
  omega

theorem not_isTypeByte {b : Byte} (hi : b ≠ TYPE_I) (hp : b ≠ TYPE_P) (ht : b ≠ TYPE_T) : ¬ isTypeByte b = true := by
  simp only [isTypeByte_iff, not_or]
  exact ⟨hi, hp, ht⟩

theorem not_isCtrl {b : Byte} (hesc : b ≠ ESC) (hetx : b ≠ ETX) (hsyn : b ≠ SYN) (hstx : b ≠ STX) :
    ¬ isCtrl b = true := by
  simp only [isCtrl_iff, not_or]
  exact ⟨hesc, hetx, hsyn, hstx⟩

/-- The byte whose value is an address plus 65 is that address's byte (R94). -/
theorem eq_byteOfAddr {b : Byte} {a : Addr} (h : b.toNat = a.val + 65) : b = byteOfAddr a :=
  BitVec.eq_of_toNat_eq (h.trans (byteOfAddr_toNat a).symm)

/-- Settles O3: the lemma of each row's byte class. -/
theorem everyByteSelectsItsRow : Obligations.EveryByteSelectsItsRow := by
  unfold Obligations.EveryByteSelectsItsRow
  intro b now
  refine ⟨?_, ?_, ?_, ?_, ?_, ?_, ?_, ?_, ?_, ?_, ?_, ?_, ?_, ?_, ?_, ?_, ?_, ?_⟩
  · rintro rfl; rfl
  · intro h; exact decodeByte_waitSync1_of_ne h now
  · rintro rfl; rfl
  · intro h; exact decodeByte_waitSync2_of_ne h now
  · rintro rfl; rfl
  · intro h; exact decodeByte_waitStx_of_ne h now
  · intro a h; rw [eq_byteOfAddr h, decodeByte_waitAddr_byteOfAddr]
  · intro h; exact decodeByte_waitAddr_of_not_isAddrByte (not_isAddrByte h) now
  · rintro rfl; rfl
  · rintro rfl; rfl
  · rintro rfl; rfl
  · rintro ⟨hi, hp, ht⟩; exact decodeByte_waitType_of_not_isTypeByte (not_isTypeByte hi hp ht) now
  · rintro rfl; rfl
  · rintro rfl; rfl
  · intro h; exact decodeByte_waitData_of_framing h now
  · rintro ⟨h1, h2, h3, h4⟩; exact decodeByte_waitData_of_not_isCtrl (not_isCtrl h1 h2 h3 h4) now
  · intro h; exact decodeByte_waitRawData_of_isCtrl ((isCtrl_iff b).mpr h) now
  · rintro ⟨h1, h2, h3, h4⟩; exact decodeByte_waitRawData_of_not_isCtrl (not_isCtrl h1 h2 h3 h4) now

/-- Settles O4: each word is evaluated. -/
theorem sampleWordsDecode : Obligations.SampleWordsDecode := by
  unfold Obligations.SampleWordsDecode
  decide

/-- A reported byte is counted and leaves state and current node (R120, R224). -/
theorem rejectByte_eq {q : DecState} {s : State} (hq : s.dec.state = q) (kind : ErrorKind) :
    rejectByte kind s = { s with
      dec := { state := q, loc := s.dec.loc + 1, cur := s.dec.cur }
      trace := s.trace ++ [.decErr kind (s.dec.loc + 1)] } := by
  subst hq; rfl

/-- Settles O10: the error row of each header state. -/
theorem wrongHeaderBytesAreWrongChar : Obligations.WrongHeaderBytesAreWrongChar := by
  unfold Obligations.WrongHeaderBytesAreWrongChar
  intro s b now
  refine ⟨fun hq hb => ⟨?_, ?_⟩, fun hq hb => ⟨?_, ?_⟩, fun hq hb => ⟨?_, ?_⟩⟩
  · rw [hq, decodeByte_waitSync1_of_ne hb]
  · exact congrArg _ (rejectByte_eq hq .wrongChar)
  · rw [hq, decodeByte_waitSync2_of_ne hb]
  · exact congrArg _ (rejectByte_eq hq .wrongChar)
  · rw [hq, decodeByte_waitStx_of_ne hb]
  · exact congrArg _ (rejectByte_eq hq .wrongChar)

/-- Settles O12: the error rows of WaitAddr and WaitType. -/
theorem wrongAddressAndTypeBytesAreReported : Obligations.WrongAddressAndTypeBytesAreReported := by
  unfold Obligations.WrongAddressAndTypeBytesAreReported
  intro s b now
  refine ⟨fun hq hb => ⟨?_, ?_⟩, fun hq hi hp ht => ⟨?_, ?_⟩⟩
  · rw [hq, decodeByte_waitAddr_of_not_isAddrByte (not_isAddrByte hb)]
  · exact congrArg _ (rejectByte_eq hq .wrongAddress)
  · rw [hq, decodeByte_waitType_of_not_isTypeByte (not_isTypeByte hi hp ht)]
  · exact congrArg _ (rejectByte_eq hq .wrongType)

/-- Settles O15: the error rows of WaitData and WaitRawData. -/
theorem wrongPayloadBytesAreWrongChar : Obligations.WrongPayloadBytesAreWrongChar := by
  unfold Obligations.WrongPayloadBytesAreWrongChar
  intro s b now
  refine ⟨fun hq hb => ⟨?_, ?_⟩, fun hq hesc hetx hsyn hstx => ⟨?_, ?_⟩⟩
  · rw [hq, decodeByte_waitData_of_framing hb]
  · exact congrArg _ (rejectByte_eq hq .wrongChar)
  · rw [hq, decodeByte_waitRawData_of_not_isCtrl (not_isCtrl hesc hetx hsyn hstx)]
  · exact congrArg _ (rejectByte_eq hq .wrongChar)

end Sys2Proof.Machine
end

section
/-! One step of the machine is `exec` of the oldest input, decoded (O5), or idle (O6), or refused (O7); and the whole
transaction CONSUME is the row its byte selects (O17), counted and with at most one event (O18). -/
namespace Sys2Proof.Machine

/-! The step, by the time of the decoded instruction. -/

theorem step_untimed {s : State} {x : Input} {rest : List Input} {i : Instr} (hx : s.inbox = x :: rest)
    (hd : decode s.dec.state x = .ok i) (ht : timeOf i = none) : step s = exec i { s with inbox := rest } := by
  simp only [step, fetch, hx, hd, checkClock, startTransaction, ht]

theorem step_on_time {s : State} {x : Input} {rest : List Input} {i : Instr} {now : Nat} (hx : s.inbox = x :: rest)
    (hd : decode s.dec.state x = .ok i) (ht : timeOf i = some now) (hle : s.clock ≤ now) :
    step s = exec i { s with inbox := rest, clock := now, started := true } := by
  simp only [step, fetch, hx, hd, checkClock, startTransaction, ht, if_neg (Nat.not_lt.mpr hle)]

theorem step_late {s : State} {x : Input} {rest : List Input} {i : Instr} {now : Nat} (hx : s.inbox = x :: rest)
    (hd : decode s.dec.state x = .ok i) (ht : timeOf i = some now) (hlt : now < s.clock) :
    step s = .refused (.clockWentBack now s.clock) := by
  simp only [step, fetch, hx, hd, checkClock, ht, if_pos hlt]

theorem step_rejected {s : State} {x : Input} {rest : List Input} {r : Reject} (hx : s.inbox = x :: rest)
    (hd : decode s.dec.state x = .error r) : step s = .refused (.input r) := by
  simp only [step, fetch, hx, hd]

/-- Settles O5: the two branches of the clock duty that run. -/
theorem stepRunsTheDecodedInstruction : Obligations.StepRunsTheDecodedInstruction := by
  unfold Obligations.StepRunsTheDecodedInstruction
  intro s x rest i hx hd
  exact ⟨fun now ht hle => step_on_time hx hd ht hle, step_untimed hx hd⟩

/-- Settles O6: with an empty inbox nothing is fetched. -/
theorem idleStepChangesNothing : Obligations.IdleStepChangesNothing := by
  unfold Obligations.IdleStepChangesNothing
  intro s hs
  simp only [step, fetch, hs]

/-- Settles O7: the decoder's two rejections, and the clock duty. -/
theorem inputsOutsideTheSpecAreRefused : Obligations.InputsOutsideTheSpecAreRefused := by
  unfold Obligations.InputsOutsideTheSpecAreRefused
  intro s x rest hx
  refine ⟨?_, ?_, fun i now hd ht hlt => step_late hx hd ht hlt⟩
  · rintro c rfl
    exact step_rejected hx rfl
  · rintro rfl
    exact step_rejected hx rfl

/-! The whole transaction. -/

/-- CONSUME is the row its byte selects (R140): the two definitions branch on the same classes. -/
theorem exec_consume (b : Byte) (now : Nat) (s : State) :
    exec (.consume b now) s = exec (decodeByte s.dec.state b now) s := by
  show Host.Outcome.next (consume b now s) = exec (decodeByte s.dec.state b now) s
  unfold consume decodeByte
  cases s.dec.state with
  | waitSync1 | waitSync2 | waitStx | waitAddr | waitRawData => dsimp only; split <;> rfl
  | waitType | waitData => dsimp only; split_ifs <;> rfl

/-- Settles O17. -/
theorem consumeIsTheSelectedArm : Obligations.ConsumeIsTheSelectedArm := by
  unfold Obligations.ConsumeIsTheSelectedArm
  intro s b now
  exact exec_consume b now s

theorem consume_waitData_etx {s : State} (hq : s.dec.state = .waitData) (now : Nat) :
    consume ETX now s = endFrame (callCur (Node.endOfFrame now) s) := by
  simp only [consume, hq]
  rfl

/-- Every byte but the one that ends a frame is counted (R120; D3). -/
theorem consume_counts {b : Byte} {s : State} (h : ¬ (s.dec.state = .waitData ∧ b = ETX)) (now : Nat) :
    (consume b now s).dec.loc = s.dec.loc + 1 := by
  unfold consume
  cases hq : s.dec.state with
  | waitSync1 | waitSync2 | waitStx | waitAddr | waitType | waitRawData =>
    dsimp only
    split_ifs <;> simp only [accept_dec, selectNode_dec, rejectByte_dec, callCur_dec]
  | waitData =>
    have hetx : b ≠ ETX := fun hb => h ⟨hq, hb⟩
    simp only [if_neg hetx]
    split_ifs <;> simp only [accept_dec, rejectByte_dec, callCur_dec]

/-- The counter after a byte: cleared by the end of a frame (R134), else one more. -/
theorem consume_loc (b : Byte) (now : Nat) (s : State) :
    (consume b now s).dec.loc = if s.dec.state = .waitData ∧ b = ETX then 0 else s.dec.loc + 1 := by
  split
  next h => rw [h.2, consume_waitData_etx h.1]; rfl
  next h => exact consume_counts h now

/-- A transaction emits nothing or one event. -/
theorem Emission.at_most_one {s t : State} (h : Emission s t) : t.trace = s.trace ∨ ∃ e, t.trace = s.trace ++ [e] := by
  cases h with
  | quiet htrace => exact .inl htrace
  | txBegin htrace | txByte htrace | nodeReport htrace => exact .inr ⟨_, htrace⟩
  | rejected => exact .inr ⟨_, rfl⟩

/-- Settles O18: `consume` is a total function, counted and with its emission. -/
theorem consumeCompletesWithAtMostOneEvent : Obligations.ConsumeCompletesWithAtMostOneEvent := by
  unfold Obligations.ConsumeCompletesWithAtMostOneEvent
  intro s b now
  exact ⟨consume b now s, rfl, consume_loc b now s, (consume_emission b now s).at_most_one⟩

/-- An instruction carries the time of the input it is encoded as (R11). -/
theorem timeOf_eq_inputTime (i : Instr) : timeOf i = Laws.inputTime (encode i) := by
  cases i <;> rfl

/-- A wire byte is a timed input, whatever row it selects. -/
theorem timeOf_decodeByte (q : DecState) (b : Byte) (now : Nat) : timeOf (decodeByte q b now) = some now := by
  rw [timeOf_eq_inputTime, (decodeByte_denotes q b now).encoded]
  rfl

/-- The step of a wire byte on time is CONSUME of it. -/
theorem step_byte {s : State} {b : Byte} {now : Nat} {rest : List Input} (hx : s.inbox = .byte b now :: rest)
    (hle : s.clock ≤ now) :
    step s = .next (consume b now { s with inbox := rest, clock := now, started := true }) := by
  rw [step_on_time hx rfl (timeOf_decodeByte _ b now) hle]
  exact (exec_consume b now { s with inbox := rest, clock := now, started := true }).symm

end Sys2Proof.Machine
end

section
/-! Frames (R139, R227): what the decoder rows that call no node leave (O20), what the rows that call one leave and through them
CONSUME (O21, O8), how the type bytes and the end byte make their call (O13, O14), and calls to no node (O19). -/
namespace Sys2Proof.Machine

/-! Calls of the current node, to an absent node and as part of a row. -/

/-- Settles O19: each entry point is a call of the current node. -/
theorem callsToAnAbsentNodeAreDiscarded : Obligations.CallsToAnAbsentNodeAreDiscarded := by
  unfold Obligations.CallsToAnAbsentNodeAreDiscarded
  intro s b now hs
  have hcall (f : Node → Except ErrorKind Node) : Host.Outcome.next (callCur f s) = (.next s : Result) :=
    congrArg _ (callCur_none hs f)
  exact ⟨hcall _, hcall _, hcall _, hcall _, hcall _⟩

/-- Settles O13: the row is the control call, and then the decoder counts the byte and moves to WaitData. -/
theorem typeBytesRunTheirControlCall : Obligations.TypeBytesRunTheirControlCall := by
  unfold Obligations.TypeBytesRunTheirControlCall
  intro s now hq
  rw [hq]
  exact ⟨⟨rfl, _, rfl, congrArg _ (accept_callCur .waitData Node.init s)⟩,
    ⟨rfl, _, rfl, congrArg _ (accept_callCur .waitData Node.poll s)⟩,
    ⟨rfl, _, rfl, congrArg _ (accept_callCur .waitData Node.transmit s)⟩⟩

/-- Settles O14: the row is `endOfFrame`, and then the decoder is cleared. -/
theorem endByteEndsTheFrame : Obligations.EndByteEndsTheFrame := by
  unfold Obligations.EndByteEndsTheFrame
  intro s now hq
  rw [hq]
  exact ⟨rfl, _, rfl, rfl⟩

/-! The rows that call no node. -/

theorem readVec_of_nodes_eq {s t : State} (h : t.nodes = s.nodes) (k : Nat) (side : Side) (i : Nat) :
    t.readVec k side i = s.readVec k side i := by
  simp only [State.readVec, h]

/-- Settles O20: the accepting rows write `D` alone, the error rows are `rejectByte`. -/
theorem decoderOnlyRowsLeaveTheNodes : Obligations.DecoderOnlyRowsLeaveTheNodes := by
  unfold Obligations.DecoderOnlyRowsLeaveTheNodes
  intro i s t b a now h
  have hrejects (kind : ErrorKind) (ht : t = rejectByte kind s) :
      SameOutside s t ∧ t.nodes = s.nodes ∧ (∀ k side j, t.readVec k side j = s.readVec k side j) ∧
      t.dec = { s.dec with loc := s.dec.loc + 1 } ∧ ∃ kind, t.trace = s.trace ++ [.decErr kind (s.dec.loc + 1)] := by
    subst ht
    exact ⟨⟨rfl, rfl, rfl, rfl, rfl, rfl⟩, rfl, readVec_of_nodes_eq rfl, rfl, kind, rfl⟩
  simp only [List.mem_cons, List.not_mem_nil, or_false]
  constructor
  · rintro (rfl | rfl | rfl | rfl | rfl) <;> cases h <;>
      exact ⟨⟨rfl, rfl, rfl, rfl, rfl, rfl⟩, rfl, readVec_of_nodes_eq rfl, rfl, rfl⟩
  · rintro (rfl | rfl | rfl | rfl | rfl | rfl | rfl) <;> cases h <;> exact hrejects _ rfl

/-! The rows that call a node. -/

/-! No control call and no end of a frame writes a vector. -/

theorem Node.vecRead_of_init {n n' : Node} (h : n.init = .ok n') : n'.vecRead = n.vecRead := by
  obtain ⟨_, rfl⟩ := Node.init_ok h; rfl

theorem Node.vecRead_of_poll {n n' : Node} (h : n.poll = .ok n') : n'.vecRead = n.vecRead := by
  obtain ⟨_, rfl⟩ := Node.poll_ok h; rfl

theorem Node.vecRead_of_transmit {n n' : Node} (h : n.transmit = .ok n') : n'.vecRead = n.vecRead := by
  obtain ⟨_, rfl⟩ := Node.transmit_ok h; rfl

theorem Node.vecRead_of_endOfFrame {now : Nat} {n n' : Node} (h : n.endOfFrame now = .ok n') :
    n'.vecRead = n.vecRead := by
  rcases Node.endOfFrame_ok h with ⟨_, _, rfl⟩ | ⟨_, rfl⟩ | ⟨_, rfl⟩ <;> rfl

/-- A payload byte writes a vector in DoTransmit alone, and there only `outVec[index]` (R172). -/
theorem Node.vecRead_of_feed {b : Byte} {n n' : Node} {side : Side} {j : Nat} (h : n.feed b = .ok n')
    (hne : ¬ (side = .out ∧ n.state = .doTransmit ∧ j = n.index)) : n'.vecRead side j = n.vecRead side j := by
  rcases Node.feed_ok h with ⟨_, _, rfl⟩ | ⟨_, rfl⟩ | ⟨_, rfl⟩ | ⟨_, rfl⟩ | ⟨_, _, rfl⟩ | ⟨hq, rfl⟩
  rotate_right
  · exact Node.vecRead_outWrite_other b fun ⟨hside, hj⟩ => hne ⟨hside, hq, hj⟩
  all_goals rfl

/-- From `s` to `t` only the decoder, the trace and the current node changed, and of the vectors only `outVec[index]` of that
node in DoTransmit, and only if a payload byte was `fed`. -/
structure TouchesCurOnly (s t : State) (fed : Prop) : Prop where
  outside : SameOutside s t
  others  : ∀ j, s.dec.cur ≠ some j → t.nodes[j]? = s.nodes[j]?
  vectors : ∀ k side j, ¬ (side = .out ∧ fed ∧ ∃ n, IsCur s k n ∧ n.state = .doTransmit ∧ j = n.index) →
    t.readVec k side j = s.readVec k side j

theorem TouchesCurOnly.mono {s t : State} {fed fed' : Prop} (h : TouchesCurOnly s t fed) (hfed : fed → fed') :
    TouchesCurOnly s t fed' where
  outside := h.outside
  others := h.others
  vectors := fun k side j hne => h.vectors k side j fun ⟨hside, hf, hn⟩ => hne ⟨hside, hfed hf, hn⟩

/-- What writes decoder and trace alone touches no node. -/
theorem TouchesCurOnly.of_dec_trace (s : State) (d : Dec) (tr : List Event) (fed : Prop) :
    TouchesCurOnly s { s with dec := d, trace := tr } fed where
  outside := ⟨rfl, rfl, rfl, rfl, rfl, rfl⟩
  others := fun _ _ => rfl
  vectors := fun k side j _ => readVec_of_nodes_eq rfl k side j

/-- A call of the current node, whatever its row writes to the decoder after it. -/
theorem TouchesCurOnly.of_callCur {f : Node → Except ErrorKind Node} {fed : Prop} (s : State) (d : Dec)
    (hf : ∀ {n n' side j}, f n = .ok n' → ¬ (side = .out ∧ fed ∧ n.state = .doTransmit ∧ j = n.index) →
      n'.vecRead side j = n.vecRead side j) : TouchesCurOnly s { callCur f s with dec := d } fed := by
  rcases callCur_cases f s with h | ⟨k, n, n', hcur, hok, h⟩ | ⟨_, _, _, _, _, h⟩ <;> rw [h]
  · exact .of_dec_trace s d s.trace fed
  · refine ⟨⟨rfl, rfl, rfl, rfl, rfl, rfl⟩, fun j hj => ?_, fun k' side j hne => ?_⟩
    · have hkj : k ≠ j := fun hk => hj (hk ▸ hcur.cur)
      exact List.getElem?_set_ne hkj
    · refine readVec_setNode_of_agree hcur.node fun hk => hf hok ?_
      rintro ⟨hside, hfed, hq, hj⟩
      exact hne ⟨hside, hfed, n, hk ▸ hcur, hq, hj⟩
  · exact .of_dec_trace s d _ fed

/-- The node call of a row feeds only if the row is DATA_BYTE or RAW_CTRL. -/
theorem exec_row_touchesCurOnly {i : Instr} {b : Byte} {now : Nat} {s t : State} (hi : encode i = .byte b now)
    (h : exec i s = .next t) : TouchesCurOnly s t (i = .dataByte b now ∨ i = .rawCtrl b now) := by
  cases i <;> cases hi <;> cases h
  case typeInit => exact .of_callCur s _ fun hok _ => by rw [Node.vecRead_of_init hok]
  case typePoll => exact .of_callCur s _ fun hok _ => by rw [Node.vecRead_of_poll hok]
  case typeTransmit => exact .of_callCur s _ fun hok _ => by rw [Node.vecRead_of_transmit hok]
  case dataEtx => exact .of_callCur s _ fun hok _ => by rw [Node.vecRead_of_endOfFrame hok]
  case dataByte =>
    exact .of_callCur s _ fun hok hne => Node.vecRead_of_feed hok fun ⟨hside, hn⟩ => hne ⟨hside, .inl rfl, hn⟩
  case rawCtrl =>
    exact .of_callCur s _ fun hok hne => Node.vecRead_of_feed hok fun ⟨hside, hn⟩ => hne ⟨hside, .inr rfl, hn⟩
  all_goals exact .of_dec_trace s _ _ _

/-- CONSUME touches what its byte's row touches. -/
theorem exec_consume_touchesCurOnly {b : Byte} {now : Nat} {s t : State} (h : exec (.consume b now) s = .next t) :
    TouchesCurOnly s t (decodeByte s.dec.state b now = .dataByte b now ∨ decodeByte s.dec.state b now = .rawCtrl b now) :=
  exec_row_touchesCurOnly (decodeByte_denotes s.dec.state b now).encoded (exec_consume b now s ▸ h)

/-- Settles O21: the rows that call a node, and CONSUME through the row its byte selects. -/
theorem nodeCallingRowsTouchOnlyTheCurrentNode : Obligations.NodeCallingRowsTouchOnlyTheCurrentNode := by
  unfold Obligations.NodeCallingRowsTouchOnlyTheCurrentNode
  intro i s t b now hi h
  have htouch : TouchesCurOnly s t (i = .dataByte b now ∨ i = .rawCtrl b now ∨ i = .consume b now ∧
      (decodeByte s.dec.state b now = .dataByte b now ∨ decodeByte s.dec.state b now = .rawCtrl b now)) := by
    simp only [List.mem_cons, List.not_mem_nil, or_false] at hi
    rcases hi with rfl | rfl | rfl | rfl | rfl | rfl | rfl
    · exact (exec_row_touchesCurOnly rfl h).mono fun hfed => hfed.elim nofun nofun
    · exact (exec_row_touchesCurOnly rfl h).mono fun hfed => hfed.elim nofun nofun
    · exact (exec_row_touchesCurOnly rfl h).mono fun hfed => hfed.elim nofun nofun
    · exact (exec_row_touchesCurOnly rfl h).mono fun hfed => hfed.elim nofun nofun
    · exact (exec_row_touchesCurOnly rfl h).mono fun hfed => hfed.imp_right .inl
    · exact (exec_row_touchesCurOnly rfl h).mono fun hfed => hfed.imp_right .inl
    · exact (exec_consume_touchesCurOnly h).mono fun hfed => .inr (.inr ⟨rfl, hfed⟩)
  exact ⟨htouch.outside, htouch.others, htouch.vectors⟩

/-- Settles O8: the step is CONSUME, which always answers, leaves the rest of the inbox and the clock, and counts. -/
theorem everyByteOnTimeRuns : Obligations.EveryByteOnTimeRuns := by
  unfold Obligations.EveryByteOnTimeRuns
  intro s b now rest hx hle
  have hout := (exec_consume_touchesCurOnly (b := b) (now := now)
    (s := { s with inbox := rest, clock := now, started := true }) rfl).outside
  exact ⟨_, step_byte hx hle, hout.inbox, hout.clock, consume_loc b now _⟩

end Sys2Proof.Machine
end

section
/-! FEED where it decodes an init set or stores an output byte (O26, O27), the frame of the five entry points (O30), and the
protocol cycle that a run of accepted calls drives a node through (O31). -/
namespace Sys2Proof.Machine

/-! FEED in DoInit and in DoTransmit. -/

/-- A set byte goes through the node's routine while sets are expected (R170, R171). -/
theorem Node.feed_doInit {n : Node} (h : n.state = .doInit) (b : Byte) :
    n.feed b = if n.index < n.numSets.toNat then
      .ok { n with sub := applyInitSet n.routine n.sub n.index b, index := n.index + 1 } else .error .protocolError := by
  simp only [Node.feed, h, setsPending_iff]

/-- An output byte goes through the bounds-checked write (R172). -/
theorem Node.feed_doTransmit {n : Node} (h : n.state = .doTransmit) (b : Byte) :
    n.feed b = .ok { n.outWrite n.index b with index := n.index + 1 } := by
  simp only [Node.feed, h]

/-- Settles O26: a set byte expected, by each of the two kinds of routine, and a surplus one. -/
theorem feedDecodesInitSets : Obligations.FeedDecodesInitSets := by
  unfold Obligations.FeedDecodesInitSets
  intro s k n b hcur hq
  have hfeed := Node.feed_doInit hq b
  refine ⟨fun name hr hlt => ?_, fun hr hlt => ?_, fun hle => ?_⟩
  · have hsub : applyInitSet n.routine n.sub n.index b = Config.initSet name n.sub n.index b := by rw [hr]; rfl
    rw [if_pos hlt, hsub] at hfeed
    exact exec_feed_of_ok hcur hfeed
  · have hsub : applyInitSet n.routine n.sub n.index b = n.sub ++ [b] := by rw [hr]; rfl
    rw [if_pos hlt, hsub] at hfeed
    exact exec_feed_of_ok hcur hfeed
  · rw [if_neg (Nat.not_lt.mpr hle)] at hfeed
    exact congrArg _ (callCur_of_error hcur hfeed)

theorem Node.outWrite_inVec (n : Node) (i : Nat) (v : Byte) : (n.outWrite i v).inVec = n.inVec := by
  unfold Node.outWrite; split <;> rfl

/-- An output write that counts changes no field but the output vector and the index. -/
theorem Node.outWrite_count_restored (n : Node) (i : Nat) (v : Byte) :
    { { n.outWrite i v with index := i + 1 } with index := n.index, outVec := n.outVec } = n := by
  unfold Node.outWrite; split <;> rfl

/-- Settles O27: the node is written as `outWrite` answers, and its vectors read as after that write. -/
theorem feedStoresOneOutputByte : Obligations.FeedStoresOneOutputByte := by
  unfold Obligations.FeedStoresOneOutputByte
  intro s k n b hcur hq hwf
  have hfeed := Node.feed_doTransmit hq b
  refine ⟨_, _, exec_feed_of_ok hcur hfeed, rfl, rfl, n.outWrite_count_restored n.index b, rfl, rfl,
    ⟨rfl, rfl, rfl, rfl, rfl, rfl⟩, fun hlt => ?_, fun k' side j hne => ?_⟩
  · exact (readVec_setNode_same hcur.node _ .out n.index).trans (Node.vecRead_outWrite_same hlt hwf b)
  · refine readVec_setNode_of_agree hcur.node fun hk => ?_
    rcases Nat.lt_or_ge n.index n.outBytes with hlt | hle
    · exact Node.vecRead_outWrite_other b fun ⟨hside, hj⟩ => hne ⟨hk, hside, hj, hlt⟩
    · rw [Node.outWrite_of_le hle]
      rfl

/-! The frame of an entry point. -/

/-- An accepted call changes its node, but neither its configuration nor its input vector. -/
structure EntryWrite (n n' : Node) : Prop where
  config  : SameConfig n n'
  inVec   : n'.inVec = n.inVec
  changed : n' ≠ n

theorem Node.ne_of_state {n n' : Node} (h : n'.state ≠ n.state) : n' ≠ n := fun e => h (congrArg Node.state e)

theorem Node.ne_of_index_succ {n n' : Node} (h : n'.index = n.index + 1) : n' ≠ n := by
  rintro rfl
  exact absurd h.symm (Nat.succ_ne_self _)

theorem EntryWrite.of_init {n n' : Node} (h : n.init = .ok n') : EntryWrite n n' := by
  have hconfig := (NodeWrite.init h).sameConfig
  obtain ⟨hq, rfl⟩ := Node.init_ok h
  exact ⟨hconfig, rfl, Node.ne_of_state (by simp [hq])⟩

theorem EntryWrite.of_poll {n n' : Node} (h : n.poll = .ok n') : EntryWrite n n' := by
  have hconfig := (NodeWrite.poll h).sameConfig
  obtain ⟨hq, rfl⟩ := Node.poll_ok h
  exact ⟨hconfig, rfl, Node.ne_of_state (by simp [hq])⟩

theorem EntryWrite.of_transmit {n n' : Node} (h : n.transmit = .ok n') : EntryWrite n n' := by
  have hconfig := (NodeWrite.transmit h).sameConfig
  obtain ⟨hq, rfl⟩ := Node.transmit_ok h
  exact ⟨hconfig, rfl, Node.ne_of_state (by simp [hq])⟩

theorem EntryWrite.of_feed {b : Byte} {n n' : Node} (h : n.feed b = .ok n') : EntryWrite n n' := by
  have hconfig := sameConfig_feed h
  rcases Node.feed_ok h with ⟨hq, _, rfl⟩ | ⟨hq, rfl⟩ | ⟨hq, rfl⟩ | ⟨hq, rfl⟩ | ⟨_, _, rfl⟩ | ⟨_, rfl⟩
  · exact ⟨hconfig, rfl, Node.ne_of_state (by simp [hq])⟩
  · exact ⟨hconfig, rfl, Node.ne_of_state (by simp [hq])⟩
  · exact ⟨hconfig, rfl, Node.ne_of_state (by simp [hq])⟩
  · exact ⟨hconfig, rfl, Node.ne_of_state (by simp [hq])⟩
  · exact ⟨hconfig, rfl, Node.ne_of_index_succ rfl⟩
  · exact ⟨hconfig, n.outWrite_inVec n.index b, Node.ne_of_index_succ rfl⟩

theorem EntryWrite.of_endOfFrame {now : Nat} {n n' : Node} (h : n.endOfFrame now = .ok n') : EntryWrite n n' := by
  have hconfig := sameConfig_endOfFrame h
  rcases Node.endOfFrame_ok h with ⟨hq, _, rfl⟩ | ⟨hq, rfl⟩ | ⟨hq, rfl⟩ <;>
    exact ⟨hconfig, rfl, Node.ne_of_state (by simp [hq])⟩

/-- What a call of the current node `k`, which is `n`, leaves as it was; `fed` allows the one vector byte FEED can write. -/
structure EntryFrame (s t : State) (k : Nat) (n : Node) (fed : Prop) : Prop where
  dec     : t.dec = s.dec
  outside : SameOutside s t
  others  : ∀ j, j ≠ k → t.nodes[j]? = s.nodes[j]?
  node    : ∃ n', t.nodes[k]? = some n' ∧ SameConfig n n' ∧ n'.inVec = n.inVec
  vectors : ∀ k' side j, ¬ (fed ∧ n.state = .doTransmit ∧ k' = k ∧ side = .out ∧ j = n.index) →
    t.readVec k' side j = s.readVec k' side j
  outcome : (t.nodes = s.nodes ∧ ∃ kind, t.trace = s.trace ++ [.nodeErr kind k n.addr]) ∨
    (t.trace = s.trace ∧ t.nodes ≠ s.nodes)

theorem EntryFrame.of_callCur {f : Node → Except ErrorKind Node} {s : State} {k : Nat} {n : Node} {fed : Prop}
    (hcur : IsCur s k n) (hwrite : ∀ {n'}, f n = .ok n' → EntryWrite n n')
    (hvec : ∀ {n' side j}, f n = .ok n' → ¬ (fed ∧ n.state = .doTransmit ∧ side = .out ∧ j = n.index) →
      n'.vecRead side j = n.vecRead side j) : EntryFrame s (callCur f s) k n fed := by
  cases hf : f n with
  | ok n' =>
    rw [callCur_of_ok hcur hf]
    obtain ⟨hconfig, hin, hne⟩ := hwrite hf
    have hnode : (s.nodes.set k n')[k]? = some n' := (hcur.setNode n').node
    refine ⟨rfl, ⟨rfl, rfl, rfl, rfl, rfl, rfl⟩, fun j hj => List.getElem?_set_ne hj.symm, ⟨n', hnode, hconfig, hin⟩,
      fun k' side j hn => ?_, .inr ⟨rfl, fun hsame => ?_⟩⟩
    · exact readVec_setNode_of_agree hcur.node fun hk =>
        hvec hf fun ⟨hfed, hq, hside, hj⟩ => hn ⟨hfed, hq, hk, hside, hj⟩
    · rw [show s.nodes.set k n' = s.nodes from hsame, hcur.node] at hnode
      exact hne (Option.some.inj hnode).symm
  | error e =>
    rw [callCur_of_error hcur hf]
    exact ⟨rfl, ⟨rfl, rfl, rfl, rfl, rfl, rfl⟩, fun _ _ => rfl, ⟨n, hcur.node, .refl n, rfl⟩,
      fun k' side j _ => readVec_of_nodes_eq rfl k' side j, .inl ⟨rfl, e, rfl⟩⟩

/-- Settles O30: each of the five instructions is a call of the current node. -/
theorem entryPointsTouchOnlyTheirNode : Obligations.EntryPointsTouchOnlyTheirNode := by
  unfold Obligations.EntryPointsTouchOnlyTheirNode
  intro i s t k n b now hi hcur h
  have hframe : EntryFrame s t k n (i = .feed b) := by
    simp only [List.mem_cons, List.not_mem_nil, or_false] at hi
    rcases hi with rfl | rfl | rfl | rfl | rfl <;> cases h
    · exact .of_callCur hcur .of_init fun hok _ => by rw [Node.vecRead_of_init hok]
    · exact .of_callCur hcur .of_poll fun hok _ => by rw [Node.vecRead_of_poll hok]
    · exact .of_callCur hcur .of_transmit fun hok _ => by rw [Node.vecRead_of_transmit hok]
    · exact .of_callCur hcur .of_feed fun hok hne =>
        Node.vecRead_of_feed hok fun ⟨hside, hq, hj⟩ => hne ⟨rfl, hq, hside, hj⟩
    · exact .of_callCur hcur .of_endOfFrame fun hok _ => by rw [Node.vecRead_of_endOfFrame hok]
  obtain ⟨hdec, hout, hothers, hnode, hvec, houtcome⟩ := hframe
  exact ⟨hdec, hout, hothers, hnode, hvec, houtcome⟩

/-! Runs of accepted calls. -/

/-- Run with `n` as the current node, the instructions emit nothing and leave `n'` as the current node. -/
def Drives (is : List Instr) (n n' : Node) : Prop :=
  ∀ s k, IsCur s k n → ∃ t, execAll is s = .next t ∧ t.trace = s.trace ∧ IsCur t k n'

theorem Drives.nil (n : Node) : Drives [] n n := fun s _ hcur => ⟨s, rfl, rfl, hcur⟩

/-- An accepted call drives the node to its answer. -/
theorem Drives.cons {i : Instr} {is : List Instr} {f : Node → Except ErrorKind Node} {n m n' : Node}
    (hi : ∀ s, exec i s = .next (callCur f s)) (hok : f n = .ok m) (h : Drives is m n') : Drives (i :: is) n n' := by
  intro s k hcur
  obtain ⟨t, hrun, htrace, ht⟩ := h _ k (hcur.setNode m)
  refine ⟨t, ?_, htrace, ht⟩
  rw [execAll_cons (hi s), callCur_of_ok hcur hok]
  exact hrun

theorem Drives.append {is js : List Instr} {n m n' : Node} (h : Drives is n m) (h' : Drives js m n') :
    Drives (is ++ js) n n' := by
  intro s k hcur
  obtain ⟨u, hrun, htrace, hu⟩ := h s k hcur
  obtain ⟨t, hrun', htrace', ht⟩ := h' u k hu
  exact ⟨t, (execAll_append hrun).trans hrun', htrace'.trans htrace, ht⟩

/-- In DoInit as many set bytes as are still expected are all accepted, and counted. -/
theorem drives_sets (sets : List Byte) {n : Node} (hq : n.state = .doInit)
    (hle : n.index + sets.length ≤ n.numSets.toNat) :
    ∃ sub, Drives (sets.map .feed) n { n with sub := sub, index := n.index + sets.length } := by
  induction sets generalizing n with
  | nil => exact ⟨n.sub, Drives.nil n⟩
  | cons b sets ih =>
    rw [List.length_cons] at hle
    have hfeed := (Node.feed_doInit hq b).trans (if_pos (by omega))
    obtain ⟨sub, hrest⟩ :=
      ih (n := { n with sub := applyInitSet n.routine n.sub n.index b, index := n.index + 1 }) hq (by dsimp only; omega)
    refine ⟨sub, Drives.cons (fun _ => rfl) hfeed ?_⟩
    rw [List.length_cons, Nat.add_comm sets.length, ← Nat.add_assoc]
    exact hrest

/-- The INIT frame up to its set count: type identifier, delay and count (R162, R166 to R169). -/
theorem drives_definition {n : Node} (hq : n.state = .waitInit) (hi lo num : Byte) :
    Drives [.init, .feed n.typeId, .feed hi, .feed lo, .feed num] n
      { n with delay := delayLow (delayHigh hi) lo, numSets := num, index := 0, state := .doInit } := by
  refine .cons (fun _ => rfl) (Node.init_waitInit hq) ?_
  refine .cons (fun _ => rfl) ((Node.feed_waitNodeDefParam rfl n.typeId).trans (if_pos rfl)) ?_
  refine .cons (fun _ => rfl) (Node.feed_waitDelayHigh rfl hi) ?_
  refine .cons (fun _ => rfl) (Node.feed_waitDelayLow rfl lo) ?_
  exact .cons (fun _ => rfl) (Node.feed_waitNumSets rfl num) (.nil _)

/-- With all sets arrived, the end of the INIT frame and a POLL frame start the delay (R175, R163, R176). -/
theorem drives_to_waitDelay {n : Node} (hq : n.state = .doInit) (hall : n.index = n.numSets.toNat) (e t0 : Nat) :
    Drives [.endOfFrame e, .poll, .endOfFrame t0] n { n with delayStart := t0, state := .waitDelay } := by
  refine .cons (fun _ => rfl) ((Node.endOfFrame_doInit hq e).trans (if_pos hall)) ?_
  refine .cons (fun _ => rfl) (Node.poll_waitPoll rfl) ?_
  exact .cons (fun _ => rfl) (Node.endOfFrame_waitEndPoll rfl t0) (.nil _)

/-- Settles O31: the definition, the sets and the poll, one after another. -/
theorem protocolCycleReachesWaitDelay : Obligations.ProtocolCycleReachesWaitDelay := by
  unfold Obligations.ProtocolCycleReachesWaitDelay
  intro s k n hi lo num sets e t0 hcur hq hlen
  obtain ⟨sub, hsets⟩ := drives_sets sets (n := { n with
    delay := delayLow (delayHigh hi) lo, numSets := num, index := 0, state := .doInit }) rfl (by dsimp only; omega)
  have hall : 0 + sets.length = num.toNat := by omega
  have hcycle := ((drives_definition hq hi lo num).append hsets).append (drives_to_waitDelay rfl hall e t0)
  obtain ⟨t, hrun, htrace, ht⟩ := hcycle s k hcur
  exact ⟨t, _, hrun, htrace, ht.node, rfl, toNat_delayLow_delayHigh hi lo, rfl, hall, rfl⟩

end Sys2Proof.Machine
end

section
/-! Dead registers (R43): clearing them before an instruction is not seen after it. Each operation is shown to commute with
`live`, up to `live` of what it answers; two states that agree on the live registers then behave alike (O55). -/
namespace Sys2Proof.Machine

/-! What clearing the dead registers of a node leaves. -/

@[simp] theorem Node.live_state (n : Node) : n.live.state = n.state := by
  unfold Node.live; split <;> rfl

@[simp] theorem Node.live_addr (n : Node) : n.live.addr = n.addr := by
  unfold Node.live; split <;> rfl

@[simp] theorem Node.live_typeId (n : Node) : n.live.typeId = n.typeId := by
  unfold Node.live; split <;> rfl

@[simp] theorem Node.live_inRead (n : Node) (i : Nat) : n.live.inRead i = n.inRead i := by
  unfold Node.live; split <;> rfl

@[simp] theorem Node.live_outRead (n : Node) (i : Nat) : n.live.outRead i = n.outRead i := by
  unfold Node.live; split <;> rfl

theorem Node.live_doInit {n : Node} (h : n.state = .doInit) : n.live = { n with delayStart := 0 } := by
  simp only [Node.live, h]

theorem Node.live_waitDelay {n : Node} (h : n.state = .waitDelay) : n.live = { n with index := 0, numSets := 0 } := by
  simp only [Node.live, h]

theorem Node.live_doReceive {n : Node} (h : n.state = .doReceive) : n.live = { n with numSets := 0, delayStart := 0 } := by
  simp only [Node.live, h]

theorem Node.live_doTransmit {n : Node} (h : n.state = .doTransmit) :
    n.live = { n with numSets := 0, delayStart := 0 } := by
  simp only [Node.live, h]

/-! The vector writes and the entry points. -/

@[simp] theorem Node.inWrite_state (n : Node) (i : Nat) (v : Byte) : (n.inWrite i v).state = n.state := by
  unfold Node.inWrite; split <;> rfl

@[simp] theorem Node.outWrite_state (n : Node) (i : Nat) (v : Byte) : (n.outWrite i v).state = n.state := by
  unfold Node.outWrite; split <;> rfl

theorem Node.live_inWrite (n : Node) (i : Nat) (v : Byte) : (n.live.inWrite i v).live = (n.inWrite i v).live := by
  cases hq : n.state <;> simp only [Node.live, Node.inWrite_state, hq] <;> simp only [Node.inWrite] <;> split <;> rfl

theorem Node.live_outWrite (n : Node) (i : Nat) (v : Byte) : (n.live.outWrite i v).live = (n.outWrite i v).live := by
  cases hq : n.state <;> simp only [Node.live, Node.outWrite_state, hq] <;> simp only [Node.outWrite] <;> split <;> rfl

/-- An entry point whose answer does not depend on dead registers, but for dead registers of the answer. -/
def RespectsLive (f : Node → Except ErrorKind Node) : Prop := ∀ n, (f n.live).map Node.live = (f n).map Node.live

theorem Node.init_respectsLive : RespectsLive Node.init := by
  intro n
  by_cases h : n.state = .waitInit
  · rw [Node.init_waitInit h, Node.init_waitInit (n.live_state.trans h)]
    simp only [Except.map, Node.live, h]
  · rw [Node.init_of_ne h, Node.init_of_ne (by simpa using h)]

theorem Node.poll_respectsLive : RespectsLive Node.poll := by
  intro n
  by_cases h : n.state = .waitPoll
  · rw [Node.poll_waitPoll h, Node.poll_waitPoll (n.live_state.trans h)]
    simp only [Except.map, Node.live, h]
  · rw [Node.poll_of_ne h, Node.poll_of_ne (by simpa using h)]

theorem Node.transmit_respectsLive : RespectsLive Node.transmit := by
  intro n
  by_cases h : n.state = .waitTransmit
  · rw [Node.transmit_waitTransmit h, Node.transmit_waitTransmit (n.live_state.trans h)]
    simp only [Except.map, Node.live, h]
  · rw [Node.transmit_of_ne h, Node.transmit_of_ne (by simpa using h)]

theorem Node.endOfFrame_respectsLive (now : Nat) : RespectsLive (Node.endOfFrame now) := by
  intro n
  have hlive := n.live_state
  cases hq : n.state
  case doInit =>
    rw [Node.endOfFrame_doInit hq, Node.endOfFrame_doInit (hlive.trans hq), Node.live_doInit hq]
    dsimp only
    split <;> rfl
  case waitEndPoll =>
    rw [Node.endOfFrame_waitEndPoll hq, Node.endOfFrame_waitEndPoll (hlive.trans hq)]
    simp only [Except.map, Node.live, hq]
  case doTransmit =>
    rw [Node.endOfFrame_doTransmit hq, Node.endOfFrame_doTransmit (hlive.trans hq)]
    simp only [Except.map, Node.live, hq]
  all_goals
    rw [Node.endOfFrame_of_no_frame now (by simp [hq]), Node.endOfFrame_of_no_frame now (by simp [hq])]

theorem Node.feed_respectsLive (b : Byte) : RespectsLive (Node.feed b) := by
  intro n
  have hlive := n.live_state
  cases hq : n.state
  case waitNodeDefParam =>
    rw [Node.feed_waitNodeDefParam hq, Node.feed_waitNodeDefParam (hlive.trans hq), Node.live_typeId]
    split
    · simp only [Except.map, Node.live, hq]
    · rfl
  case waitDelayHigh =>
    rw [Node.feed_waitDelayHigh hq, Node.feed_waitDelayHigh (hlive.trans hq)]
    simp only [Except.map, Node.live, hq]
  case waitDelayLow =>
    rw [Node.feed_waitDelayLow hq, Node.feed_waitDelayLow (hlive.trans hq)]
    simp only [Except.map, Node.live, hq]
  case waitNumSets =>
    rw [Node.feed_waitNumSets hq, Node.feed_waitNumSets (hlive.trans hq)]
    simp only [Except.map, Node.live, hq]
  case doInit =>
    rw [Node.feed_doInit hq, Node.feed_doInit (hlive.trans hq), Node.live_doInit hq]
    dsimp only
    split
    · simp only [Except.map, Node.live, hq]
    · rfl
  case doTransmit =>
    rw [Node.feed_doTransmit hq, Node.feed_doTransmit (hlive.trans hq), Node.live_doTransmit hq]
    unfold Node.outWrite
    dsimp only
    split <;> simp only [Except.map, Node.live, hq]
  all_goals
    rw [Node.feed_of_no_payload b (by simp [hq]), Node.feed_of_no_payload b (by simp [hq])]

/-! The shared operations. -/

/-- A result with the dead registers of its next state cleared. -/
def liveResult : Result → Result
  | .next s => .next s.live
  | .fault r => .fault r
  | .refused r => .refused r

@[simp] theorem Node.live_live (n : Node) : n.live.live = n.live := by
  cases hq : n.state <;> simp only [Node.live, hq]

@[simp] theorem State.live_live (s : State) : s.live.live = s.live := by
  simp only [State.live, List.map_map, Function.comp_def, Node.live_live]

theorem getElem?_nodes_live (s : State) (k : Nat) : s.live.nodes[k]? = s.nodes[k]?.map Node.live :=
  List.getElem?_map ..

theorem setNode_live (k : Nat) (n : Node) (s : State) : (setNode k n s).live = setNode k n.live s.live := by
  simp only [setNode, State.live, List.map_set]

/-- Nodes that agree on their live registers are the same node to write. -/
theorem setNode_live_congr {k : Nat} {n n' : Node} (h : n.live = n'.live) (s : State) :
    (setNode k n s.live).live = (setNode k n' s).live := by
  rw [setNode_live, setNode_live, State.live_live, h]

theorem RespectsLive.cases {f : Node → Except ErrorKind Node} (hf : RespectsLive f) (n : Node) :
    (∃ m m', f n.live = .ok m ∧ f n = .ok m' ∧ m.live = m'.live) ∨
    (∃ e, f n.live = .error e ∧ f n = .error e) := by
  have h := hf n
  cases hl : f n.live <;> cases hr : f n <;>
    simp only [hl, hr, Except.map, Except.ok.injEq, Except.error.injEq, reduceCtorEq] at h
  · exact .inr ⟨_, rfl, congrArg _ h.symm⟩
  · exact .inl ⟨_, _, rfl, rfl, h⟩

theorem callNode_live (k : Nat) {f : Node → Except ErrorKind Node} (hf : RespectsLive f) (s : State) :
    (callNode k f s.live).live = (callNode k f s).live := by
  simp only [callNode, getElem?_nodes_live]
  cases s.nodes[k]? with
  | none => exact s.live_live
  | some n =>
    rcases hf.cases n with ⟨m, m', hl, hr, hm⟩ | ⟨e, hl, hr⟩
    · simp only [Option.map_some, hl, hr]
      exact setNode_live_congr hm s
    · simp only [Option.map_some, hl, hr, raiseNode, Node.live_addr]
      exact congrArg (emit _) s.live_live

theorem callCur_live {f : Node → Except ErrorKind Node} (hf : RespectsLive f) (s : State) :
    (callCur f s.live).live = (callCur f s).live := by
  unfold callCur
  rw [show s.live.dec = s.dec from rfl]
  cases s.dec.cur with
  | none => exact s.live_live
  | some k => exact callNode_live k hf s

theorem withNode_live {k : Nat} {s : State} {f g : Node → State} (h : ∀ n, (f n.live).live = (g n).live) :
    liveResult (withNode k s.live f) = liveResult (withNode k s g) := by
  cases hk : s.nodes[k]? with
  | none => rw [withNode_none hk, withNode_none (by rw [getElem?_nodes_live, hk]; rfl)]
  | some n =>
    rw [withNode_some hk, withNode_some (n := n.live) (by rw [getElem?_nodes_live, hk]; rfl)]
    exact congrArg Host.Outcome.next (h n)

/-- In WaitDelay the delay, in DoReceive the index is live; elsewhere a step reads no register but the state. -/
theorem stepNode_live (k now : Nat) (n : Node) (s : State) :
    (stepNode k now n.live s.live).live = (stepNode k now n s).live := by
  have hdraw : (drawFinished k s.live).live = (drawFinished k s).live := congrArg (drawFinished k) s.live_live
  unfold stepNode
  rw [n.live_state]
  cases hq : n.state with
  | waitDelay =>
    have helapsed : n.live.delayElapsed now = n.delayElapsed now := by rw [Node.live_waitDelay hq]; rfl
    simp only [helapsed, n.live_addr]
    split
    · exact congrArg (drawFinished k) (setNode_live_congr (by simp only [Node.live, hq]) (emit _ s))
    · exact hdraw
  | doReceive =>
    have hpending : n.live.sendPending = n.sendPending := by rw [Node.live_doReceive hq]; rfl
    have hindex : n.live.index = n.index := by rw [Node.live_doReceive hq]
    simp only [hpending, hindex, n.live_inRead]
    split
    · exact congrArg (report _) (setNode_live_congr (by simp only [Node.live, hq]) (emit _ s))
    · exact congrArg (report _) (setNode_live_congr (by simp only [Node.live, hq]) s)
  | _ => exact hdraw

theorem registerAt_live (k : Nat) (a : Addr) (s : State) : (registerAt k a s).live = registerAt k a s.live := by
  unfold registerAt
  rw [show regFree a s.live = regFree a s from rfl]
  split <;> rfl

theorem addNode_live (n : Node) (s : State) : (addNode n s).live = addNode n.live s.live := by
  simp only [addNode, State.live, List.map_append, List.map_cons, List.map_nil]

theorem execConstruct_live (d : NodeDesc) (s : State) :
    liveResult (execConstruct d s.live) = liveResult (execConstruct d s) := by
  have hlength : s.live.nodes.length = s.nodes.length := List.length_map _
  unfold execConstruct
  rw [show s.live.started = s.started from rfl, hlength]
  cases d.problem with
  | some r => rfl
  | none =>
    cases s.started with
    | true => rfl
    | false => simp [liveResult, registerAt_live, addNode_live]

/-! The instructions. -/

/-- A decoder row: what it writes to the decoder is no node's register. -/
theorem exec_row_live {i : Instr} {b : Byte} {now : Nat} (hi : encode i = .byte b now) (s : State) :
    liveResult (exec i s.live) = liveResult (exec i s) := by
  have hdec (g : State → State) (hg : ∀ u : State, (g u).live = g u.live) :
      liveResult (.next (g s.live)) = liveResult (.next (g s)) := by
    simp only [liveResult, hg, State.live_live]
  have hcall {f : Node → Except ErrorKind Node} (hf : RespectsLive f) (g : State → State)
      (hg : ∀ u : State, (g u).live = g u.live) :
      liveResult (.next (g (callCur f s.live))) = liveResult (.next (g (callCur f s))) := by
    simp only [liveResult, hg, callCur_live hf s]
  cases i <;> cases hi
  case typeInit => exact hcall Node.init_respectsLive (accept .waitData) fun _ => rfl
  case typePoll => exact hcall Node.poll_respectsLive (accept .waitData) fun _ => rfl
  case typeTransmit => exact hcall Node.transmit_respectsLive (accept .waitData) fun _ => rfl
  case dataEtx => exact hcall (Node.endOfFrame_respectsLive now) endFrame fun _ => rfl
  case dataByte => exact hcall (Node.feed_respectsLive b) (accept .waitData) fun _ => rfl
  case rawCtrl => exact hcall (Node.feed_respectsLive b) (accept .waitData) fun _ => rfl
  case addr => exact hdec (selectNode _) fun _ => rfl
  case sync1 | sync2 | stx | dataEsc => exact hdec (accept _) fun _ => rfl
  all_goals exact hdec (rejectByte _) fun _ => rfl

/-- Clearing the dead registers before an instruction is not seen after it. -/
theorem exec_live (i : Instr) (s : State) : liveResult (exec i s.live) = liveResult (exec i s) := by
  have hcall {f : Node → Except ErrorKind Node} (hf : RespectsLive f) :
      liveResult (.next (callCur f s.live)) = liveResult (.next (callCur f s)) :=
    congrArg Host.Outcome.next (callCur_live hf s)
  have hreport (r : Return) : (report r s.live).live = (report r s).live := congrArg (report r) s.live_live
  cases i with
  | consume b now =>
    rw [exec_consume, exec_consume]
    exact exec_row_live (decodeByte_denotes s.dec.state b now).encoded s
  | init => exact hcall Node.init_respectsLive
  | poll => exact hcall Node.poll_respectsLive
  | transmit => exact hcall Node.transmit_respectsLive
  | feed b => exact hcall (Node.feed_respectsLive b)
  | endOfFrame now => exact hcall (Node.endOfFrame_respectsLive now)
  | step k now => exact withNode_live fun n => stepNode_live k now n s
  | inRead k j => exact withNode_live fun n => by rw [n.live_inRead]; exact hreport _
  | outRead k j | appReadOut k j => exact withNode_live fun n => by rw [n.live_outRead]; exact hreport _
  | inWrite k j v | appWriteIn k j v => exact withNode_live fun n => setNode_live_congr (n.live_inWrite j v) s
  | outWrite k j v => exact withNode_live fun n => setNode_live_congr (n.live_outWrite j v) s
  | construct d => exact execConstruct_live d s
  | register k =>
    refine withNode_live fun n => ?_
    rw [registerAt_live, registerAt_live, s.live_live, n.live_addr]
  | lookup a => exact congrArg Host.Outcome.next (hreport _)
  | _ => exact exec_row_live rfl s

theorem liveResult_eq_next {r r' : Result} {s : State} (h : liveResult r = liveResult r') (hr : r = .next s) :
    ∃ t, r' = .next t ∧ s.live = t.live := by
  subst hr
  cases r' with
  | next t => exact ⟨t, rfl, Host.Outcome.next.inj h⟩
  | fault f | refused f => cases h

/-- Settles O55: both states behave as the one with the dead registers cleared. -/
theorem deadRegistersAreUnobservable : Obligations.DeadRegistersAreUnobservable := by
  unfold Obligations.DeadRegistersAreUnobservable
  intro i s t hst
  have hlive : liveResult (exec i s) = liveResult (exec i t) := by rw [← exec_live, hst, exec_live]
  refine ⟨fun s' h => liveResult_eq_next hlive h, fun f h => ?_, fun r h => ?_⟩
  · rw [h] at hlive
    cases ht : exec i t <;> rw [ht] at hlive <;> cases hlive
    rfl
  · rw [h] at hlive
    cases ht : exec i t <;> rw [ht] at hlive <;> cases hlive
    rfl

end Sys2Proof.Machine
end

section
/-! The application's accesses (O42), operations on a node that does not exist (O43), construction and registration (O44, O45,
O46), and what any step can do to the registry (O48). -/
namespace Sys2Proof.Machine

/-- An input write leaves every byte but the one it stores. -/
theorem Node.vecRead_inWrite_frame {n : Node} {i j : Nat} {side : Side} (v : Byte)
    (h : ¬ (side = .inp ∧ j = i ∧ i < n.inBytes)) : (n.inWrite i v).vecRead side j = n.vecRead side j := by
  rcases Nat.lt_or_ge i n.inBytes with hi | hi
  · exact Node.vecRead_inWrite_other v fun ⟨hside, hj⟩ => h ⟨hside, hj, hi⟩
  · rw [Node.inWrite_of_le hi]

theorem exec_appWriteIn (k i : Nat) (v : Byte) (s : State) :
    exec (.appWriteIn k i v) s = exec (.inWrite k i v) s := rfl

theorem exec_appReadOut (k i : Nat) (s : State) : exec (.appReadOut k i) s = exec (.outRead k i) s := rfl

/-- Settles O42: the two accesses are the accessors IN_WRITE and OUT_READ. -/
theorem applicationUsesTheAccessors : Obligations.ApplicationUsesTheAccessors := by
  unfold Obligations.ApplicationUsesTheAccessors
  intro s k n i v hk hwf
  rw [exec_appWriteIn, exec_appReadOut, exec_inWrite hk, exec_outRead hk, readVec_of_node hk]
  refine ⟨⟨_, n.inWrite i v, rfl, rfl, n.inWrite_with_inVec i v, fun hi => ?_, fun k' side j hne => ?_⟩, rfl⟩
  · exact (readVec_setNode_same hk _ _ _).trans (Node.vecRead_inWrite_same hi hwf v)
  · exact readVec_setNode_of_agree hk fun hk' =>
      Node.vecRead_inWrite_frame v fun ⟨hside, hj, hi⟩ => hne ⟨hk', hside, hj, hi⟩

/-- Settles O43: each of the eight operations runs by `withNode`. -/
theorem missingNodesFault : Obligations.MissingNodesFault := by
  unfold Obligations.MissingNodesFault
  intro s k i v now hle x hx
  have hk : s.nodes[k]? = none := List.getElem?_eq_none hle
  simp only [List.mem_cons, List.not_mem_nil, or_false] at hx
  rcases hx with rfl | rfl | rfl | rfl | rfl | rfl | rfl | rfl <;> exact withNode_none hk _

/-! Descriptors. -/

theorem problem_of_addr {d : NodeDesc} (h : 128 ≤ d.addr) : d.problem = some (.addressOutOfRange d.addr) := if_pos h

theorem problem_of_length {d : NodeDesc} (ha : d.addr < 128)
    (h : d.inInit.length ≠ byteCount d.inBits ∨ d.outInit.length ≠ byteCount d.outBits) :
    d.problem = some .initLengthMismatch := by
  have hlen : ¬ (d.inInit.length = byteCount d.inBits ∧ d.outInit.length = byteCount d.outBits) := by tauto
  simp only [NodeDesc.problem, if_neg (Nat.not_le.mpr ha), Bool.and_eq_true, decide_eq_true_eq, if_neg hlen]

theorem problem_eq_none {d : NodeDesc} (ha : d.addr < 128) (hi : d.inInit.length = byteCount d.inBits)
    (ho : d.outInit.length = byteCount d.outBits) : d.problem = none := by
  simp only [NodeDesc.problem, if_neg (Nat.not_le.mpr ha), hi, ho, decide_true, Bool.and_self, if_true]

theorem Node.ofDesc_addr_val {d : NodeDesc} (h : d.addr < 128) : (Node.ofDesc d).addr.val = d.addr := Nat.mod_eq_of_lt h

/-- A packed array of the vector's length reads as the array, and past its end as 0x00 (R9, R200). -/
theorem read_ofBytes_bounded {bs : List Byte} {len : Nat} (h : bs.length = len) (i : Nat) :
    (if i < len then (Memory.ofBytes bs).read i else 0x00#8) = bs.getD i 0x00#8 := by
  split
  next => rw [← Memory.read_ofBytesFrom bs 0 i, Nat.zero_add]; rfl
  next hi => rw [List.getD_eq_default _ _ (by omega)]

/-! Construction, by what the descriptor and the time allow. -/

theorem exec_construct_of_problem {d : NodeDesc} {r : Reject} (h : d.problem = some r) (s : State) :
    exec (.construct d) s = .refused (.input r) := by
  simp only [exec, execConstruct, h]

theorem exec_construct_of_started {d : NodeDesc} {s : State} (h : d.problem = none) (hs : s.started = true) :
    exec (.construct d) s = .refused .lateConstruction := by
  simp only [exec, execConstruct, h, hs, if_true]

theorem exec_construct {d : NodeDesc} {s : State} (h : d.problem = none) (hs : s.started = false) :
    exec (.construct d) s = .next (registerAt s.nodes.length (Node.ofDesc d).addr (addNode (Node.ofDesc d) s)) := by
  simp only [exec, execConstruct, h, hs, Bool.false_eq_true, if_false]

/-- Settles O45: the two checks of the descriptor, then the check of `started`. -/
theorem badOrLateConstructionIsRefused : Obligations.BadOrLateConstructionIsRefused := by
  unfold Obligations.BadOrLateConstructionIsRefused
  intro s d
  refine ⟨fun ha => ?_, fun ha hlen => ?_, fun hok hs => ?_⟩
  · exact exec_construct_of_problem (problem_of_addr ha) s
  · exact exec_construct_of_problem (problem_of_length ha hlen) s
  · exact exec_construct_of_started hok hs

/-! Registration. -/

theorem registerAt_of_free {a : Addr} {s : State} (h : s.reg.get a = none) (k : Nat) :
    registerAt k a s = report (.accepted k true) { s with reg := s.reg.set a.val (some k) a.isLt } := by
  simp only [registerAt, regFree, h, decide_true, if_true]

theorem registerAt_of_taken {a : Addr} {s : State} (h : s.reg.get a ≠ none) (k : Nat) :
    registerAt k a s = report (.accepted k false) s := by
  simp only [registerAt, regFree, h, decide_false, Bool.false_eq_true, if_false]

/-- Settles O46: REGISTER is `registerAt` with the node's address. -/
theorem registerKeepsTheFirstRegistrant : Obligations.RegisterKeepsTheFirstRegistrant := by
  unfold Obligations.RegisterKeepsTheFirstRegistrant
  intro s k n hk
  have hrun : exec (.register k) s = .next (registerAt k n.addr s) := withNode_some hk _
  constructor
  · intro hfree
    rw [hrun, registerAt_of_free hfree]
    rfl
  · intro htaken
    rw [hrun, registerAt_of_taken htaken]
    rfl

/-- Registering writes the registry and the returned values alone. -/
structure RegisterFrame (s t : State) : Prop where
  dec     : t.dec = s.dec
  nodes   : t.nodes = s.nodes
  trace   : t.trace = s.trace
  draws   : t.draws = s.draws
  clock   : t.clock = s.clock
  started : t.started = s.started
  inbox   : t.inbox = s.inbox

theorem registerAt_frame (k : Nat) (a : Addr) (s : State) : RegisterFrame s (registerAt k a s) := by
  rcases registerAt_cases k a s with ⟨_, h⟩ | ⟨_, h⟩ <;> rw [h] <;> exact ⟨rfl, rfl, rfl, rfl, rfl, rfl, rfl⟩

theorem registerAt_reg_other {k : Nat} {a b : Addr} (h : b ≠ a) (s : State) :
    (registerAt k a s).reg.get b = s.reg.get b := by
  rcases registerAt_cases k a s with ⟨_, hreg⟩ | ⟨_, hreg⟩ <;> rw [hreg]
  · exact (reg_get_set s.reg a b (some k)).trans (if_neg h)
  · rfl

/-- Settles O44: the node of the descriptor is appended, and registered under the index it got. -/
theorem constructAddsARegisteredNode : Obligations.ConstructAddsARegisteredNode := by
  unfold Obligations.ConstructAddsARegisteredNode
  intro s d ha hi ho hs
  have hframe := registerAt_frame s.nodes.length (Node.ofDesc d).addr (addNode (Node.ofDesc d) s)
  have hnode : (registerAt s.nodes.length (Node.ofDesc d).addr (addNode (Node.ofDesc d) s)).nodes[s.nodes.length]? =
      some (Node.ofDesc d) := by
    rw [hframe.nodes]
    exact List.getElem?_concat_length
  refine ⟨_, Node.ofDesc d, exec_construct (problem_eq_none ha hi ho) hs, hframe.nodes, Node.ofDesc_addr_val ha, rfl, rfl,
    rfl, rfl, rfl, rfl, rfl, rfl, rfl, rfl, fun i => ?_, fun i => ?_, fun hfree => ?_, fun htaken => ?_, fun a hne => ?_,
    hframe.dec, hframe.trace, hframe.draws, hframe.clock, hframe.started, hframe.inbox⟩
  · rw [readVec_of_node hnode]
    exact read_ofBytes_bounded hi i
  · rw [readVec_of_node hnode]
    exact read_ofBytes_bounded ho i
  · rw [registerAt_of_free (s := addNode (Node.ofDesc d) s) hfree]
    exact ⟨(reg_get_set s.reg _ _ _).trans (if_pos rfl), rfl⟩
  · rw [registerAt_of_taken (s := addNode (Node.ofDesc d) s) htaken]
    exact ⟨rfl, rfl⟩
  · exact registerAt_reg_other hne _

/-! The registry in every step. -/

/-- What a transaction from `s` to `t` can do to the registry: nothing, or fill a free entry, with a node it constructs
before operation or with one that exists. -/
inductive RegChange (s t : State) : Prop where
  | same (hreg : t.reg = s.reg)
  | filled {k : Nat} {a : Addr} (hfree : s.reg.get a = none) (hreg : t.reg = s.reg.set a.val (some k) a.isLt)
      (hnode : s.started = false ∨ ∃ n, s.nodes[k]? = some n ∧ n.addr = a)

theorem RegChange.keeps {s t : State} (h : RegChange s t) {a : Addr} {k : Nat} (hk : s.reg.get a = some k) :
    t.reg.get a = some k := by
  cases h with
  | same hreg => rw [hreg, hk]
  | @filled j b hfree hreg =>
    have hab : a ≠ b := by rintro rfl; rw [hfree] at hk; cases hk
    rw [hreg, reg_get_set, if_neg hab, hk]

/-- A node's address is registered wherever the registry holds first registrants: some node is the first with it (R212). -/
theorem FirstRegistrantWins.registered {s : State} (h : FirstRegistrantWins s) {k : Nat} {n : Node}
    (hk : s.nodes[k]? = some n) : s.reg.get n.addr ≠ none := by
  classical
  have hex : ∃ j, ∃ m : Node, s.nodes[j]? = some m ∧ m.addr = n.addr := ⟨k, n, hk, rfl⟩
  have hfirst : s.reg.get n.addr = some (Nat.find hex) :=
    (h n.addr (Nat.find hex)).mpr ⟨Nat.find_spec hex, fun j m hj hm ha => Nat.find_min hex hj ⟨m, hm, ha⟩⟩
  rw [hfirst]
  exact Option.some_ne_none _

theorem registerAt_regChange {k : Nat} {a : Addr} {s u : State} (hu : u.reg = s.reg)
    (hnode : s.started = false ∨ ∃ n, s.nodes[k]? = some n ∧ n.addr = a) : RegChange s (registerAt k a u) := by
  rcases registerAt_cases k a u with ⟨hfree, h⟩ | ⟨_, h⟩ <;> rw [h]
  · exact .filled (hu ▸ hfree) (congrArg (·.set a.val (some k) a.isLt) hu) hnode
  · exact .same hu

theorem stepNode_reg (k now : Nat) (n : Node) (s : State) : (stepNode k now n s).reg = s.reg := by
  rcases stepNode_cases k now n s with ⟨_, _, h⟩ | ⟨_, _, h⟩ | ⟨_, _, h⟩ | ⟨_, _, h⟩ <;> rw [h] <;> rfl

theorem withNode_regChange {k : Nat} {s t : State} {f : Node → State} (h : withNode k s f = .next t)
    (hf : ∀ {n}, s.nodes[k]? = some n → RegChange s (f n)) : RegChange s t := by
  obtain ⟨n, hk, rfl⟩ := withNode_next h
  exact hf hk

/-- CONSTRUCT and REGISTER alone write the registry. -/
theorem exec_regChange {i : Instr} {s t : State} (h : exec i s = .next t) : RegChange s t := by
  cases i with
  | consume b now => exact .same (exec_consume_touchesCurOnly h).outside.reg
  | init | poll | transmit | feed | endOfFrame => cases h; exact .same (callCur_outside _ s).reg
  | step k now => exact withNode_regChange h fun _ => .same (stepNode_reg k now _ s)
  | inRead | outRead | appReadOut | inWrite | appWriteIn | outWrite => exact withNode_regChange h fun _ => .same rfl
  | register => exact withNode_regChange h fun hk => registerAt_regChange rfl (.inr ⟨_, hk, rfl⟩)
  | construct d =>
    obtain ⟨_, hs, rfl⟩ := execConstruct_next h
    exact registerAt_regChange rfl (.inl hs)
  | lookup => cases h; exact .same rfl
  | _ => exact .same (exec_row_touchesCurOnly rfl h).outside.reg

/-- In operation no entry is free for a node that exists, so the registry is constant. -/
theorem RegChange.constant {s t : State} (h : RegChange s t) (hfirst : FirstRegistrantWins s) (hs : s.started = true) :
    t.reg = s.reg := by
  cases h with
  | same hreg => exact hreg
  | filled hfree _ hnode =>
    rcases hnode with hfalse | ⟨n, hk, rfl⟩
    · rw [hs] at hfalse
      cases hfalse
    · exact absurd hfree (hfirst.registered hk)

/-- Settles O48: a step is idle or runs an instruction on a state with the same registry and nodes. -/
theorem registryEntriesLiveForever : Obligations.RegistryEntriesLiveForever := by
  unfold Obligations.RegistryEntriesLiveForever
  intro s t hstep
  rcases step_next_cases hstep with ⟨_, rfl⟩ | ⟨x, rest, i, _, _, ⟨_, hexec⟩ | ⟨now, _, _, hexec⟩⟩
  · exact ⟨fun _ _ => id, fun _ _ => rfl⟩
  · have hreg := exec_regChange hexec
    exact ⟨fun _ _ hk => hreg.keeps hk, fun hfirst hs => hreg.constant hfirst hs⟩
  · have hreg := exec_regChange hexec
    exact ⟨fun _ _ hk => hreg.keeps hk, fun hfirst _ => hreg.constant hfirst rfl⟩

end Sys2Proof.Machine
end

section
/-! The node's step (R190 to R197): what it does by the node's state (O32, O33, O34), that its effect does not depend on the rest
of the block, hence its frame (O36) and that steps of different nodes commute (O39), and the receive path, which is a run of
steps (O37). -/
namespace Sys2Proof.Machine

/-! The step by the node's state, beside the end of the response. -/

theorem exec_step {s : State} {k : Nat} {n : Node} (h : s.nodes[k]? = some n) (now : Nat) :
    exec (.step k now) s = .next (stepNode k now n s) := withNode_some h _

theorem stepNode_of_elapsed {n : Node} {now : Nat} (hq : n.state = .waitDelay)
    (hle : n.delayStart + n.delay.toNat ≤ now) (k : Nat) (s : State) :
    stepNode k now n s =
      drawFinished k (setNode k { n with index := 0, state := .doReceive } (emit (.txBegin k n.addr) s)) := by
  simp only [stepNode, hq, (delayElapsed_iff n now).mpr hle, if_true]

theorem stepNode_doReceive_of_lt {n : Node} (hq : n.state = .doReceive) (hi : n.index < n.inBytes) (k now : Nat)
    (s : State) : stepNode k now n s =
      report (.finished k false) (setNode k { n with index := n.index + 1 } (emit (.txByte k (n.inRead n.index)) s)) := by
  simp only [stepNode, hq, (sendPending_iff n).mpr hi, if_true]

theorem stepNode_of_idle {n : Node} {now : Nat}
    (h : (n.state = .waitDelay ∧ now < n.delayStart + n.delay.toNat) ∨ (n.state ≠ .waitDelay ∧ n.state ≠ .doReceive))
    (k : Nat) (s : State) : stepNode k now n s = drawFinished k s := by
  have hrecv : n.state ≠ .doReceive := by
    rcases h with ⟨hq, _⟩ | ⟨_, hne⟩
    · simp [hq]
    · exact hne
  rcases stepNode_cases k now n s with ⟨hq, hle, _⟩ | ⟨hq, _⟩ | ⟨hq, _⟩ | ⟨_, _, hstep⟩
  · rcases h with ⟨_, hlt⟩ | ⟨hne, _⟩
    · exact absurd hle (Nat.not_le.mpr hlt)
    · exact absurd hq hne
  · exact absurd hq hrecv
  · exact absurd hq hrecv
  · exact hstep

/-- Settles O32: the delay has elapsed. -/
theorem stepAfterTheDelayBeginsTheResponse : Obligations.StepAfterTheDelayBeginsTheResponse := by
  unfold Obligations.StepAfterTheDelayBeginsTheResponse
  intro s k n now hk hq hle
  rw [exec_step hk, stepNode_of_elapsed hq hle]
  exact ⟨_, _, rfl⟩

/-- Settles O33: no rule of the step applies but the draw of its report. -/
theorem stepElsewhereChangesNothing : Obligations.StepElsewhereChangesNothing := by
  unfold Obligations.StepElsewhereChangesNothing
  intro s k n now hk h
  rw [exec_step hk, stepNode_of_idle h]
  exact ⟨_, _, rfl⟩

/-- Settles O34: the byte sent is the input vector's at `index`. -/
theorem stepSendsTheNextInputByte : Obligations.StepSendsTheNextInputByte := by
  unfold Obligations.StepSendsTheNextInputByte
  intro s k n now hk hq hi
  rw [exec_step hk, stepNode_doReceive_of_lt hq hi, readVec_of_node hk]
  rfl

/-! The effect of a step. -/

/-- What a step of a node does, whatever the rest of the block: the node after it, its events, its report as a function of
the draws so far, and how many draws it makes. -/
structure StepEffect where
  node   : Node
  events : List Event
  done   : Nat → Bool
  drawn  : Nat

/-- The block after node `k` has made a step of this effect. -/
def StepEffect.apply (e : StepEffect) (k : Nat) (s : State) : State :=
  { s with
    nodes := s.nodes.set k e.node
    trace := s.trace ++ e.events
    returns := s.returns ++ [.finished k (e.done s.draws)]
    draws := s.draws + e.drawn }

/-- `e` is the effect of a step of node `k`, which is `n`, at time `now`. It writes no vector, and the report in DoReceive is
no draw (R194, R197). -/
structure IsEffect (k now : Nat) (n : Node) (e : StepEffect) : Prop where
  step    : ∀ s : State, s.nodes[k]? = some n → stepNode k now n s = e.apply k s
  vectors : e.node.vecRead = n.vecRead
  certain : n.state = .doReceive → ∀ d d', e.done d = e.done d'

/-- A step that only reports puts its node back as it was. -/
theorem drawFinished_eq_apply {s : State} {k : Nat} {n : Node} (h : s.nodes[k]? = some n) :
    drawFinished k s = StepEffect.apply ⟨n, [], Config.stepReport, 1⟩ k s := by
  have hset : s.nodes.set k n = s.nodes := congrArg State.nodes (setNode_self h)
  simp only [drawFinished, StepEffect.apply, hset, List.append_nil]

/-- Every step has an effect. -/
theorem exists_isEffect (k now : Nat) (n : Node) : ∃ e, IsEffect k now n e := by
  by_cases hrecv : n.state = .doReceive
  · rcases Nat.lt_or_ge n.index n.inBytes with hi | hi
    · exact ⟨⟨{ n with index := n.index + 1 }, [.txByte k (n.inRead n.index)], fun _ => false, 0⟩,
        fun s _ => stepNode_doReceive_of_lt hrecv hi k now s, rfl, fun _ _ _ => rfl⟩
    · refine ⟨⟨{ n with state := .waitTransmit }, [], fun _ => true, 0⟩, fun s _ => ?_, rfl, fun _ _ _ => rfl⟩
      rw [stepNode_doReceive_of_le hrecv hi, StepEffect.apply, List.append_nil]
      rfl
  · by_cases hready : n.state = .waitDelay ∧ n.delayStart + n.delay.toNat ≤ now
    · obtain ⟨hq, hle⟩ := hready
      exact ⟨⟨{ n with index := 0, state := .doReceive }, [.txBegin k n.addr], Config.stepReport, 1⟩,
        fun s _ => stepNode_of_elapsed hq hle k s, rfl, fun h => absurd h hrecv⟩
    · have hidle : (n.state = .waitDelay ∧ now < n.delayStart + n.delay.toNat) ∨
          (n.state ≠ .waitDelay ∧ n.state ≠ .doReceive) := by
        by_cases hq : n.state = .waitDelay
        · exact .inl ⟨hq, Nat.lt_of_not_le fun hle => hready ⟨hq, hle⟩⟩
        · exact .inr ⟨hq, hrecv⟩
      exact ⟨⟨n, [], Config.stepReport, 1⟩,
        fun s hk => (stepNode_of_idle hidle k s).trans (drawFinished_eq_apply hk), rfl, fun h => absurd h hrecv⟩

theorem IsEffect.exec {k now : Nat} {n : Node} {e : StepEffect} (he : IsEffect k now n e) {s : State}
    (hk : s.nodes[k]? = some n) : exec (.step k now) s = .next (e.apply k s) :=
  (exec_step hk now).trans (congrArg _ (he.step s hk))

theorem StepEffect.apply_nodes_other (e : StepEffect) {j k : Nat} (h : j ≠ k) (s : State) :
    (e.apply k s).nodes[j]? = s.nodes[j]? := List.getElem?_set_ne h.symm

/-- Settles O36: the effect of the step, which writes no vector. -/
theorem stepTouchesOnlyItsNode : Obligations.StepTouchesOnlyItsNode := by
  unfold Obligations.StepTouchesOnlyItsNode
  intro s t k now h
  obtain ⟨n, hk, _⟩ := withNode_next h
  obtain ⟨e, he⟩ := exists_isEffect k now n
  obtain rfl : e.apply k s = t := Host.Outcome.next.inj ((he.exec hk).symm.trans h)
  refine ⟨rfl, rfl, rfl, rfl, rfl, fun j hj => e.apply_nodes_other hj s, fun j side i => ?_, _, rfl⟩
  exact readVec_setNode_of_agree hk fun _ => by rw [he.vectors]

/-- Settles O39: two effects write different nodes, and each appends its own events and report. -/
theorem stepsOfDifferentNodesCommute : Obligations.StepsOfDifferentNodesCommute := by
  unfold Obligations.StepsOfDifferentNodesCommute
  intro s j k m n tj tk hjk hj hk
  obtain ⟨e, he⟩ := exists_isEffect j tj m
  obtain ⟨f, hf⟩ := exists_isEffect k tk n
  have hk' : (e.apply j s).nodes[k]? = some n := (e.apply_nodes_other hjk.symm s).trans hk
  have hj' : (f.apply k s).nodes[j]? = some m := (f.apply_nodes_other hjk s).trans hj
  have hjthenk : execAll [.step j tj, .step k tk] s = .next (f.apply k (e.apply j s)) := by
    rw [execAll_cons (he.exec hj), execAll_cons (hf.exec hk'), execAll]
  have hkthenj : execAll [.step k tk, .step j tj] s = .next (e.apply j (f.apply k s)) := by
    rw [execAll_cons (hf.exec hk), execAll_cons (he.exec hj'), execAll]
  refine ⟨_, _, _, _, e.events, f.events, e.done s.draws, f.done (s.draws + e.drawn), e.done (s.draws + f.drawn),
    f.done s.draws, he.exec hj, rfl, hf.exec hk, rfl, hjthenk, hkthenj, ?_, rfl, rfl, ?_, rfl, rfl, rfl, rfl, rfl, ?_, ?_,
    fun hq => he.certain hq _ _, fun hq => hf.certain hq _ _⟩
  · exact List.set_comm e.node f.node hjk
  · exact Nat.add_right_comm s.draws e.drawn f.drawn
  · exact List.append_assoc s.returns _ _
  · exact List.append_assoc s.returns _ _

/-! The receive path. -/

theorem getElem?_setNode_self {s : State} {k : Nat} {n : Node} (h : s.nodes[k]? = some n) (n' : Node) :
    (setNode k n' s).nodes[k]? = some n' := by
  obtain ⟨hlt, _⟩ := List.getElem?_eq_some_iff.mp h
  exact List.getElem?_set_self hlt

/-- From DoReceive, one step for each byte left and one more send these bytes in order and end the response. -/
theorem execAll_steps_send (k left : Nat) {s : State} {n : Node} {ts : List Nat} (hk : s.nodes[k]? = some n)
    (hq : n.state = .doReceive) (hleft : n.index + left = n.inBytes) (hts : ts.length = left + 1) :
    ∃ t n' rs, execAll (ts.map (.step k)) s = .next t ∧
      t.trace = s.trace ++ (List.range' n.index left).map (fun i => .txByte k (n.inRead i)) ∧
      t.nodes[k]? = some n' ∧ n'.state = .waitTransmit ∧ n'.inVec = n.inVec ∧ n'.outVec = n.outVec ∧
      t.returns = rs ++ [.finished k true] := by
  induction left generalizing s n ts with
  | zero =>
    obtain ⟨t1, rfl⟩ := List.length_eq_one_iff.mp hts
    have hrun := (exec_step hk t1).trans (congrArg _ (stepNode_doReceive_of_le hq (by omega) k t1 s))
    exact ⟨_, _, s.returns, execAll_cons hrun, (List.append_nil _).symm, getElem?_setNode_self hk _, rfl, rfl, rfl, rfl⟩
  | succ left ih =>
    obtain ⟨t1, ts, rfl⟩ := List.exists_cons_of_length_eq_add_one hts
    have hrun := (exec_step hk t1).trans (congrArg _ (stepNode_doReceive_of_lt hq (by omega) k t1 s))
    have hk' : (report (.finished k false) (setNode k { n with index := n.index + 1 }
        (emit (.txByte k (n.inRead n.index)) s))).nodes[k]? = some { n with index := n.index + 1 } :=
      getElem?_setNode_self hk _
    obtain ⟨t, n', rs, hrest, htrace, hnode, hq', hin, hout, hret⟩ :=
      ih hk' hq (by dsimp only; omega) (Nat.succ.inj hts)
    refine ⟨t, n', rs, (execAll_cons hrun).trans hrest, htrace.trans ?_, hnode, hq', hin, hout, hret⟩
    rw [List.range'_succ]
    exact List.append_assoc s.trace _ _

/-- Settles O37: the step at or after the delay, and then the input vector from its first byte. -/
theorem receivePathSendsTheInputVector : Obligations.ReceivePathSendsTheInputVector := by
  unfold Obligations.ReceivePathSendsTheInputVector
  intro s k n t0 ts hk hq hle hts
  have hbegin := (exec_step hk t0).trans (congrArg _ (stepNode_of_elapsed hq hle k s))
  have hk' : (drawFinished k (setNode k { n with index := 0, state := .doReceive }
      (emit (.txBegin k n.addr) s))).nodes[k]? = some { n with index := 0, state := .doReceive } :=
    getElem?_setNode_self hk _
  obtain ⟨t, n', rs, hrest, htrace, hnode, hq', hin, hout, hret⟩ :=
    execAll_steps_send k n.inBytes hk' rfl (Nat.zero_add _) hts
  refine ⟨t, n', rs, (execAll_cons hbegin).trans hrest, htrace.trans ?_, hnode, hq', hin, hout, hret⟩
  rw [List.range_eq_range', funext fun i => congrArg (Event.txByte k) (readVec_of_node hk .inp i)]
  exact List.append_assoc s.trace _ _

end Sys2Proof.Machine
end

section
/-! What a step of the machine emits (O54, O38), and that no node returns to WaitInit (O52). -/
namespace Sys2Proof.Machine

/-! Error reports of the entry points. -/

/-- The entry point never answers an InternalError, the kind that no rule raises (R222). -/
def NoInternal (f : Node → Except ErrorKind Node) : Prop := ∀ n e, f n = .error e → e ≠ .internalError

theorem Node.init_noInternal : NoInternal Node.init := by
  intro n e h
  by_cases hq : n.state = .waitInit
  · rw [Node.init_waitInit hq] at h; cases h
  · rw [Node.init_of_ne hq] at h; cases h; decide

theorem Node.poll_noInternal : NoInternal Node.poll := by
  intro n e h
  by_cases hq : n.state = .waitPoll
  · rw [Node.poll_waitPoll hq] at h; cases h
  · rw [Node.poll_of_ne hq] at h; cases h; decide

theorem Node.transmit_noInternal : NoInternal Node.transmit := by
  intro n e h
  by_cases hq : n.state = .waitTransmit
  · rw [Node.transmit_waitTransmit hq] at h; cases h
  · rw [Node.transmit_of_ne hq] at h; cases h; decide

theorem Node.feed_noInternal (b : Byte) : NoInternal (Node.feed b) := by
  intro n e h
  cases hq : n.state
  case waitNodeDefParam =>
    rw [Node.feed_waitNodeDefParam hq] at h
    split at h <;> cases h
    decide
  case waitDelayHigh => rw [Node.feed_waitDelayHigh hq] at h; cases h
  case waitDelayLow => rw [Node.feed_waitDelayLow hq] at h; cases h
  case waitNumSets => rw [Node.feed_waitNumSets hq] at h; cases h
  case doInit =>
    rw [Node.feed_doInit hq] at h
    split at h <;> cases h
    decide
  case doTransmit => rw [Node.feed_doTransmit hq] at h; cases h
  all_goals
    rw [Node.feed_of_no_payload b (by simp [hq])] at h
    cases h
    decide

theorem Node.endOfFrame_noInternal (now : Nat) : NoInternal (Node.endOfFrame now) := by
  intro n e h
  cases hq : n.state
  case doInit =>
    rw [Node.endOfFrame_doInit hq] at h
    split at h <;> cases h
    decide
  case waitEndPoll => rw [Node.endOfFrame_waitEndPoll hq] at h; cases h
  case doTransmit => rw [Node.endOfFrame_doTransmit hq] at h; cases h
  all_goals
    rw [Node.endOfFrame_of_no_frame now (by simp [hq])] at h
    cases h
    decide

/-! What an instruction other than STEP emits. -/

/-- The trace gains nothing, or one error report of a kind that a rule raises. -/
inductive ReportsError (s t : State) : Prop where
  | quiet (htrace : t.trace = s.trace)
  | decoder {kind : ErrorKind} {l : Nat} (hkind : kind ≠ .internalError)
      (htrace : t.trace = s.trace ++ [.decErr kind l])
  | node {kind : ErrorKind} {k : Nat} {a : Addr} (hkind : kind ≠ .internalError)
      (htrace : t.trace = s.trace ++ [.nodeErr kind k a])

theorem callCur_reportsError {f : Node → Except ErrorKind Node} (hf : NoInternal f) (s : State) (d : Dec) :
    ReportsError s { callCur f s with dec := d } := by
  rcases callCur_cases f s with h | ⟨_, _, _, _, _, h⟩ | ⟨_, n, e, _, herr, h⟩ <;> rw [h]
  · exact .quiet rfl
  · exact .quiet rfl
  · exact .node (hf n e herr) rfl

theorem exec_row_reportsError {i : Instr} {b : Byte} {now : Nat} {s t : State} (hi : encode i = .byte b now)
    (h : exec i s = .next t) : ReportsError s t := by
  cases i <;> cases hi <;> cases h
  case sync1 | sync2 | stx | addr | dataEsc => exact .quiet rfl
  case typeInit => exact callCur_reportsError Node.init_noInternal s _
  case typePoll => exact callCur_reportsError Node.poll_noInternal s _
  case typeTransmit => exact callCur_reportsError Node.transmit_noInternal s _
  case dataEtx => exact callCur_reportsError (Node.endOfFrame_noInternal now) s _
  case dataByte | rawCtrl => exact callCur_reportsError (Node.feed_noInternal b) s _
  all_goals exact .decoder (by decide) rfl

/-- An instruction is a STEP of a node that exists, or reports at most an error. -/
theorem exec_reportsError {i : Instr} {s t : State} (h : exec i s = .next t) :
    (∃ k now n, i = .step k now ∧ s.nodes[k]? = some n ∧ t = stepNode k now n s) ∨ ReportsError s t := by
  cases i with
  | step k now =>
    obtain ⟨n, hk, rfl⟩ := withNode_next h
    exact .inl ⟨k, now, n, rfl, hk, rfl⟩
  | consume b now =>
    rw [exec_consume] at h
    exact .inr (exec_row_reportsError (decodeByte_denotes s.dec.state b now).encoded h)
  | init => cases h; exact .inr (callCur_reportsError Node.init_noInternal s _)
  | poll => cases h; exact .inr (callCur_reportsError Node.poll_noInternal s _)
  | transmit => cases h; exact .inr (callCur_reportsError Node.transmit_noInternal s _)
  | feed b => cases h; exact .inr (callCur_reportsError (Node.feed_noInternal b) s _)
  | endOfFrame now => cases h; exact .inr (callCur_reportsError (Node.endOfFrame_noInternal now) s _)
  | inRead | outRead | appReadOut | inWrite | appWriteIn | outWrite =>
    obtain ⟨_, _, rfl⟩ := withNode_next h
    exact .inr (.quiet rfl)
  | register k =>
    obtain ⟨n, _, rfl⟩ := withNode_next h
    exact .inr (.quiet (registerAt_trace k n.addr s))
  | construct d =>
    obtain ⟨_, _, rfl⟩ := execConstruct_next h
    exact .inr (.quiet (registerAt_trace _ _ _))
  | lookup => cases h; exact .inr (.quiet rfl)
  | _ => exact .inr (exec_row_reportsError rfl h)

/-- The trace gains at most one event, and no InternalError. -/
def EmitsOne (s t : State) : Prop :=
  t.trace = s.trace ∨
    ∃ e, t.trace = s.trace ++ [e] ∧ (∀ l, e ≠ .decErr .internalError l) ∧ ∀ k a, e ≠ .nodeErr .internalError k a

theorem ReportsError.emitsOne {s t : State} (h : ReportsError s t) : EmitsOne s t := by
  cases h with
  | quiet htrace => exact .inl htrace
  | decoder hkind htrace => exact .inr ⟨_, htrace, fun l he => hkind (Event.decErr.inj he).1, nofun⟩
  | node hkind htrace => exact .inr ⟨_, htrace, nofun, fun k a he => hkind (Event.nodeErr.inj he).1⟩

theorem stepNode_emitsOne (k now : Nat) (n : Node) (s : State) : EmitsOne s (stepNode k now n s) := by
  rcases stepNode_cases k now n s with ⟨_, _, h⟩ | ⟨_, _, h⟩ | ⟨_, _, h⟩ | ⟨_, _, h⟩ <;> rw [h]
  · exact .inr ⟨_, rfl, nofun, nofun⟩
  · exact .inr ⟨_, rfl, nofun, nofun⟩
  · exact .inl rfl
  · exact .inl rfl

theorem exec_emitsOne {i : Instr} {s t : State} (h : exec i s = .next t) : EmitsOne s t := by
  rcases exec_reportsError h with ⟨k, now, n, _, _, rfl⟩ | hreport
  · exact stepNode_emitsOne k now n s
  · exact hreport.emitsOne

/-- Settles O54: a step is idle, or runs an instruction on a state with the same trace. -/
theorem stepEmitsAtMostOneEventAndNoInternalError : Obligations.StepEmitsAtMostOneEventAndNoInternalError := by
  unfold Obligations.StepEmitsAtMostOneEventAndNoInternalError
  intro s t hstep
  rcases step_next_cases hstep with ⟨_, rfl⟩ | ⟨x, rest, i, _, _, ⟨_, hexec⟩ | ⟨now, _, _, hexec⟩⟩
  · exact .inl rfl
  · have hemit := exec_emitsOne hexec
    exact hemit
  · have hemit := exec_emitsOne hexec
    exact hemit

/-! The begin of a response. -/

/-- TxBegin is emitted by a step of the named node after its delay alone (R191). -/
theorem exec_txBegin {i : Instr} {s t : State} {k : Nat} {a : Addr} (h : exec i s = .next t)
    (ht : t.trace = s.trace ++ [.txBegin k a]) :
    ∃ n now, i = .step k now ∧ s.nodes[k]? = some n ∧ n.addr = a ∧ n.state = .waitDelay ∧
      n.delayStart + n.delay.toNat ≤ now := by
  rcases exec_reportsError h with ⟨j, now, n, rfl, hj, rfl⟩ | hreport
  · rcases stepNode_cases j now n s with ⟨hq, hle, heq⟩ | ⟨_, _, heq⟩ | ⟨_, _, heq⟩ | ⟨_, _, heq⟩ <;> rw [heq] at ht
    · obtain ⟨rfl, rfl⟩ : j = k ∧ n.addr = a := by simpa using ht
      exact ⟨n, now, rfl, hj, rfl, hq, hle⟩
    all_goals simp at ht
  · cases hreport with
    | quiet htrace | decoder _ htrace | node _ htrace => simp [htrace] at ht

/-- Settles O38: the instruction is a STEP, and the only input that decodes to one is the call of it. -/
theorem responseNeverBeginsBeforeTheDelay : Obligations.ResponseNeverBeginsBeforeTheDelay := by
  unfold Obligations.ResponseNeverBeginsBeforeTheDelay
  intro s t k a hstep ht
  rcases step_next_cases hstep with ⟨_, rfl⟩ | ⟨x, rest, i, hx, hd, ⟨_, hexec⟩ | ⟨now, _, _, hexec⟩⟩
  · simp at ht
  · obtain ⟨n, now, rfl, hk, ha, hq, hle⟩ := exec_txBegin hexec ht
    obtain rfl := (decode_denotes hd).encoded
    exact ⟨n, now, rest, hx, hk, ha, hq, hle⟩
  · obtain ⟨n, now', rfl, hk, ha, hq, hle⟩ := exec_txBegin hexec ht
    obtain rfl := (decode_denotes hd).encoded
    exact ⟨n, now', rest, hx, hk, ha, hq, hle⟩

/-! No node returns to WaitInit. -/

/-- Every write that moves a node on moves it to another state than WaitInit. -/
theorem NodeWrite.state_ne_waitInit {n n' : Node} (h : NodeWrite n n') (hne : n.state ≠ .waitInit) :
    n'.state ≠ .waitInit := by
  cases h with
  | init h => obtain ⟨_, rfl⟩ := Node.init_ok h; exact nofun
  | poll h => obtain ⟨_, rfl⟩ := Node.poll_ok h; exact nofun
  | transmit h => obtain ⟨_, rfl⟩ := Node.transmit_ok h; exact nofun
  | feed b h =>
    rcases Node.feed_ok h with ⟨_, _, rfl⟩ | ⟨_, rfl⟩ | ⟨_, rfl⟩ | ⟨_, rfl⟩ | ⟨_, _, rfl⟩ | ⟨_, rfl⟩
    · exact nofun
    · exact nofun
    · exact nofun
    · exact nofun
    · exact hne
    · exact (n.outWrite_state n.index b).trans_ne hne
  | endOfFrame now h => rcases Node.endOfFrame_ok h with ⟨_, _, rfl⟩ | ⟨_, rfl⟩ | ⟨_, rfl⟩ <;> exact nofun
  | beginResponse | endResponse => exact nofun
  | sendByte => exact hne
  | inWrite i v => exact (n.inWrite_state i v).trans_ne hne
  | outWrite i v => exact (n.outWrite_state i v).trans_ne hne

/-- A node that was there is as it was or written once. -/
theorem NodesChange.old_node {ns ms : List Node} {j : Nat} {m m' : Node} (h : NodesChange ns ms) (hj : ns[j]? = some m)
    (hj' : ms[j]? = some m') : m' = m ∨ NodeWrite m m' := by
  obtain ⟨hlt, _⟩ := List.getElem?_eq_some_iff.mp hj
  cases h with
  | same => exact .inl (Option.some.inj (hj'.symm.trans hj))
  | @write k n n' hk hw =>
    by_cases hkj : k = j
    · subst hkj
      obtain rfl : n = m := Option.some.inj (hk.symm.trans hj)
      obtain rfl : n' = m' := Option.some.inj ((List.getElem?_set_self hlt).symm.trans hj')
      exact .inr hw
    · exact .inl (Option.some.inj (hj'.symm.trans ((List.getElem?_set_ne hkj).trans hj)))
  | construct d => exact .inl (Option.some.inj (hj'.symm.trans ((List.getElem?_append_left hlt).trans hj)))

/-- Settles O52: a step leaves the node or writes it once. -/
theorem waitInitIsNeverEnteredAgain : Obligations.WaitInitIsNeverEnteredAgain := by
  unfold Obligations.WaitInitIsNeverEnteredAgain
  intro s t k n n' hstep hk hne hk'
  rcases (step_nodesChange hstep).old_node hk hk' with rfl | hw
  · exact hne
  · exact hw.state_ne_waitInit hne

end Sys2Proof.Machine
end

section
/-! The invariant (O49, O50): what each part of it needs of a write of the decoder, of a node, of the registry and of the node
list; then every instruction is one of these writes. -/
namespace Sys2Proof.Machine

/-! The registry as a search. -/

/-- The index of the first node constructed with address `a`. -/
def firstWith (ns : List Node) (a : Addr) : Option Nat := (ns.map Node.addr).findIdx? (· == a)

theorem firstWith_eq_some {ns : List Node} {a : Addr} {k : Nat} : firstWith ns a = some k ↔
    (∃ n, ns[k]? = some n ∧ n.addr = a) ∧ ∀ j m, j < k → ns[j]? = some m → m.addr ≠ a := by
  simp only [firstWith, List.findIdx?_eq_some_iff_getElem, List.length_map, List.getElem_map, beq_iff_eq]
  constructor
  · rintro ⟨hlt, ha, hbefore⟩
    refine ⟨⟨ns[k], List.getElem?_eq_getElem hlt, ha⟩, fun j m hj hm => ?_⟩
    obtain ⟨_, rfl⟩ := List.getElem?_eq_some_iff.mp hm
    exact hbefore j hj
  · rintro ⟨⟨n, hn, ha⟩, hbefore⟩
    obtain ⟨hlt, rfl⟩ := List.getElem?_eq_some_iff.mp hn
    exact ⟨hlt, ha, fun j hj => hbefore j _ hj (List.getElem?_eq_getElem (hj.trans hlt))⟩

/-- The registry holds first registrants iff each entry is the first node of its address (R212). -/
theorem firstRegistrantWins_iff {s : State} : FirstRegistrantWins s ↔ ∀ a, s.reg.get a = firstWith s.nodes a := by
  constructor
  · intro h a
    exact Option.ext fun k => (h a k).trans firstWith_eq_some.symm
  · intro h a k
    rw [h a]
    exact firstWith_eq_some

/-- Writing a node under its own address changes no search. -/
theorem firstWith_set {ns : List Node} {k : Nat} {n n' : Node} (hk : ns[k]? = some n) (ha : n'.addr = n.addr) (a : Addr) :
    firstWith (ns.set k n') a = firstWith ns a := by
  obtain ⟨hlt, rfl⟩ := List.getElem?_eq_some_iff.mp hk
  have hmap : (ns.set k n').map Node.addr = ns.map Node.addr := by
    rw [List.map_set, ha, ← List.getElem_map Node.addr (h := by simpa using hlt), List.set_getElem_self]
  rw [firstWith, hmap, firstWith]

/-- An appended node is the first of its address if there was none. -/
theorem firstWith_append (ns : List Node) (n : Node) (a : Addr) :
    firstWith (ns ++ [n]) a = (firstWith ns a).or (if a = n.addr then some ns.length else none) := by
  by_cases h : a = n.addr
  · subst h; simp [firstWith, List.findIdx?_append]
  · have h' : ¬ n.addr = a := fun e => h e.symm
    simp [firstWith, List.findIdx?_append, h, h']

/-! Writes of the decoder, and of what the invariant does not read. -/

theorem Inv.of_eq {s t : State} (h : Inv s) (hdec : t.dec = s.dec) (hnodes : t.nodes = s.nodes) (hreg : t.reg = s.reg)
    (hclock : s.clock ≤ t.clock) : Inv t where
  header := by unfold HeaderUnaddressed; rw [hdec]; exact h.header
  registry := by unfold FirstRegistrantWins; rw [hreg, hnodes]; exact h.registry
  cur := by unfold CurRegistered; rw [hdec, hreg, hnodes]; exact h.cur
  inert := by unfold InertStill; rw [hreg, hnodes]; exact h.inert
  vectors := by rw [hnodes]; exact h.vectors
  registers := by rw [hnodes]; exact h.registers
  starts := by unfold StartsPast; rw [hnodes]; exact fun n hn => (h.starts n hn).trans hclock

/-- The decoder may address no node, the node it addressed, or the registered node of an address; in the header states none. -/
theorem Inv.with_dec {s : State} (h : Inv s) {d : Dec}
    (hheader : d.state = .waitSync1 ∨ d.state = .waitSync2 ∨ d.state = .waitStx ∨ d.state = .waitAddr → d.cur = none)
    (hcur : d.cur = none ∨ d.cur = s.dec.cur ∨ ∃ a, d.cur = s.reg.get a) : Inv { s with dec := d } where
  header := hheader
  registry := h.registry
  cur := by
    intro k hk
    rcases hcur with hnone | hsame | ⟨a, ha⟩
    · exact absurd (hnone.symm.trans hk) nofun
    · exact h.cur k (hsame.symm.trans hk)
    · have hreg : s.reg.get a = some k := ha.symm.trans hk
      obtain ⟨⟨n, hn, rfl⟩, _⟩ := (h.registry a k).mp hreg
      exact ⟨n, hn, hreg⟩
  inert := h.inert
  vectors := h.vectors
  registers := h.registers
  starts := h.starts

/-! Writes of a node. -/

theorem toNat_delayHigh_mod (b : Byte) : (delayHigh b).toNat % 256 = 0 := by
  rw [toNat_delayHigh, Nat.shiftLeft_eq]
  omega

/-- In the states without a counter nothing is asked of the registers. -/
theorem RegistersOk.of_state {n : Node} (hi : n.state ≠ .doInit) (hr : n.state ≠ .doReceive)
    (hd : n.state ≠ .waitDelayLow) : RegistersOk n where
  sets := fun h => absurd h hi
  sent := fun h => absurd h hr
  delay := fun h => absurd h hd

theorem registersOk_inWrite {n : Node} (i : Nat) (v : Byte) (h : RegistersOk n) : RegistersOk (n.inWrite i v) := by
  unfold Node.inWrite
  split <;> exact ⟨h.sets, h.sent, h.delay⟩

theorem registersOk_outWrite {n : Node} (i : Nat) (v : Byte) (h : RegistersOk n) : RegistersOk (n.outWrite i v) := by
  unfold Node.outWrite
  split <;> exact ⟨h.sets, h.sent, h.delay⟩

theorem registersOk_feed {b : Byte} {n n' : Node} (h : n.feed b = .ok n') : RegistersOk n' := by
  rcases Node.feed_ok h with ⟨_, _, rfl⟩ | ⟨_, rfl⟩ | ⟨_, rfl⟩ | ⟨_, rfl⟩ | ⟨hq, hlt, rfl⟩ | ⟨hq, rfl⟩
  · exact .of_state nofun nofun nofun
  · exact ⟨nofun, nofun, fun _ => toNat_delayHigh_mod b⟩
  · exact .of_state nofun nofun nofun
  · exact ⟨fun _ => Nat.zero_le _, nofun, nofun⟩
  · refine ⟨fun _ => hlt, fun hr => ?_, fun hd => ?_⟩
    · exact absurd (hq.symm.trans hr) nofun
    · exact absurd (hq.symm.trans hd) nofun
  · have hstate : (n.outWrite n.index b).state = .doTransmit := (n.outWrite_state n.index b).trans hq
    refine .of_state ?_ ?_ ?_ <;> (dsimp only; rw [hstate]; exact nofun)

/-- Every write keeps the counters in range. -/
theorem NodeWrite.registersOk {n n' : Node} (h : NodeWrite n n') (hok : RegistersOk n) : RegistersOk n' := by
  cases h with
  | init h => obtain ⟨_, rfl⟩ := Node.init_ok h; exact .of_state nofun nofun nofun
  | poll h => obtain ⟨_, rfl⟩ := Node.poll_ok h; exact .of_state nofun nofun nofun
  | transmit h => obtain ⟨_, rfl⟩ := Node.transmit_ok h; exact .of_state nofun nofun nofun
  | feed b h => exact registersOk_feed h
  | endOfFrame now h =>
    rcases Node.endOfFrame_ok h with ⟨_, _, rfl⟩ | ⟨_, rfl⟩ | ⟨_, rfl⟩ <;> exact .of_state nofun nofun nofun
  | beginResponse => exact ⟨nofun, fun _ => Nat.zero_le _, nofun⟩
  | sendByte hq hlt =>
    refine ⟨fun hi => ?_, fun _ => hlt, fun hd => ?_⟩
    · exact absurd (hq.symm.trans hi) nofun
    · exact absurd (hq.symm.trans hd) nofun
  | endResponse => exact .of_state nofun nofun nofun
  | inWrite i v => exact registersOk_inWrite i v hok
  | outWrite i v => exact registersOk_outWrite i v hok

theorem vectorsOk_feed {b : Byte} {n n' : Node} (h : n.feed b = .ok n') (hok : VectorsOk n) : VectorsOk n' := by
  rcases Node.feed_ok h with ⟨_, _, rfl⟩ | ⟨_, rfl⟩ | ⟨_, rfl⟩ | ⟨_, rfl⟩ | ⟨_, _, rfl⟩ | ⟨_, rfl⟩
  rotate_right
  · obtain ⟨hin, hout, hinb, houtb⟩ := vectorsOk_outWrite n.index b hok
    exact ⟨hin, hout, hinb, houtb⟩
  all_goals exact ⟨hok.inWf, hok.outWf, hok.inBound, hok.outBound⟩

/-- Every write keeps the vectors canonical and in bounds. -/
theorem NodeWrite.vectorsOk {n n' : Node} (h : NodeWrite n n') (hok : VectorsOk n) : VectorsOk n' := by
  have hsame := hok
  obtain ⟨hin, hout, hinb, houtb⟩ := hsame
  cases h with
  | init h => obtain ⟨_, rfl⟩ := Node.init_ok h; exact ⟨hin, hout, hinb, houtb⟩
  | poll h => obtain ⟨_, rfl⟩ := Node.poll_ok h; exact ⟨hin, hout, hinb, houtb⟩
  | transmit h => obtain ⟨_, rfl⟩ := Node.transmit_ok h; exact ⟨hin, hout, hinb, houtb⟩
  | feed b h => exact vectorsOk_feed h hok
  | endOfFrame now h =>
    rcases Node.endOfFrame_ok h with ⟨_, _, rfl⟩ | ⟨_, rfl⟩ | ⟨_, rfl⟩ <;> exact ⟨hin, hout, hinb, houtb⟩
  | beginResponse | sendByte | endResponse => exact ⟨hin, hout, hinb, houtb⟩
  | inWrite i v => exact vectorsOk_inWrite i v hok
  | outWrite i v => exact vectorsOk_outWrite i v hok

/-- A node that has left WaitInit is the registered one of its address (R213). -/
theorem Inv.registered {s : State} (h : Inv s) {k : Nat} {n : Node} (hk : s.nodes[k]? = some n)
    (hne : n.state ≠ .waitInit) : s.reg.get n.addr = some k :=
  Decidable.byContradiction fun hlost => hne (h.inert k n hk hlost)

/-- A write of a node keeps the invariant if it starts no delay after the clock and moves only a registered node. -/
theorem Inv.write {s : State} (h : Inv s) {k : Nat} {n n' : Node} (hk : s.nodes[k]? = some n) (hw : NodeWrite n n')
    (hstart : n'.delayStart = n.delayStart ∨ n'.delayStart ≤ s.clock)
    (hstate : n'.state = n.state ∨ s.reg.get n.addr = some k) : Inv (setNode k n' s) := by
  have haddr := hw.sameConfig.addr
  have hmem : n ∈ s.nodes := List.mem_of_getElem? hk
  have hall (P : Node → Prop) (hold : ∀ m ∈ s.nodes, P m) (hnew : P n') : ∀ m ∈ s.nodes.set k n', P m := by
    intro m hm
    rcases List.mem_or_eq_of_mem_set hm with hm | rfl
    · exact hold m hm
    · exact hnew
  refine ⟨h.header, ?_, ?_, ?_, ?_, ?_, ?_⟩
  case refine_1 =>
    rw [firstRegistrantWins_iff]
    intro a
    exact (firstRegistrantWins_iff.mp h.registry a).trans (firstWith_set hk haddr a).symm
  case refine_2 =>
    intro j hj
    obtain ⟨m, hm, hreg⟩ := h.cur j hj
    by_cases hkj : k = j
    · subst hkj
      obtain rfl : n = m := Option.some.inj (hk.symm.trans hm)
      exact ⟨n', getElem?_setNode_self hk n', haddr ▸ hreg⟩
    · exact ⟨m, (List.getElem?_set_ne hkj).trans hm, hreg⟩
  case refine_3 =>
    intro j m hm hlost
    by_cases hkj : k = j
    · subst hkj
      obtain rfl : n' = m := Option.some.inj ((getElem?_setNode_self hk n').symm.trans hm)
      rw [haddr] at hlost
      rcases hstate with hsame | hreg
      · exact hsame.trans (h.inert k n hk hlost)
      · exact absurd hreg hlost
    · exact h.inert j m ((List.getElem?_set_ne hkj).symm.trans hm) hlost
  case refine_4 => exact hall VectorsOk h.vectors (hw.vectorsOk (h.vectors n hmem))
  case refine_5 => exact hall RegistersOk h.registers (hw.registersOk (h.registers n hmem))
  case refine_6 =>
    refine hall (·.delayStart ≤ s.clock) h.starts ?_
    rcases hstart with hsame | hle
    · exact hsame.trans_le (h.starts n hmem)
    · exact hle

/-! Calls of the current node. -/

/-- The current node is the registered one, so a call of it may move it. -/
theorem Inv.callCur {s : State} (h : Inv s) {f : Node → Except ErrorKind Node}
    (hf : ∀ {n n'}, f n = .ok n' → NodeWrite n n')
    (hstart : ∀ {n n'}, f n = .ok n' → n'.delayStart = n.delayStart ∨ n'.delayStart ≤ s.clock) : Inv (callCur f s) := by
  rcases callCur_cases f s with heq | ⟨k, n, n', hcur, hok, heq⟩ | ⟨k, n, e, _, _, heq⟩ <;> rw [heq]
  · exact h
  · obtain ⟨m, hm, hreg⟩ := h.cur k hcur.cur
    obtain rfl : n = m := Option.some.inj (hcur.node.symm.trans hm)
    exact h.write hcur.node (hf hok) (hstart hok) (.inr hreg)
  · exact h.of_eq rfl rfl rfl le_rfl

theorem Inv.call_init {s : State} (h : Inv s) : Inv (Machine.callCur Node.init s) :=
  h.callCur .init fun hok => by obtain ⟨_, rfl⟩ := Node.init_ok hok; exact .inl rfl

theorem Inv.call_poll {s : State} (h : Inv s) : Inv (Machine.callCur Node.poll s) :=
  h.callCur .poll fun hok => by obtain ⟨_, rfl⟩ := Node.poll_ok hok; exact .inl rfl

theorem Inv.call_transmit {s : State} (h : Inv s) : Inv (Machine.callCur Node.transmit s) :=
  h.callCur .transmit fun hok => by obtain ⟨_, rfl⟩ := Node.transmit_ok hok; exact .inl rfl

theorem Node.outWrite_delayStart (n : Node) (i : Nat) (v : Byte) : (n.outWrite i v).delayStart = n.delayStart := by
  unfold Node.outWrite; split <;> rfl

theorem Node.inWrite_delayStart (n : Node) (i : Nat) (v : Byte) : (n.inWrite i v).delayStart = n.delayStart := by
  unfold Node.inWrite; split <;> rfl

theorem Node.delayStart_of_feed {b : Byte} {n n' : Node} (h : n.feed b = .ok n') : n'.delayStart = n.delayStart := by
  rcases Node.feed_ok h with ⟨_, _, rfl⟩ | ⟨_, rfl⟩ | ⟨_, rfl⟩ | ⟨_, rfl⟩ | ⟨_, _, rfl⟩ | ⟨_, rfl⟩
  rotate_right
  · exact n.outWrite_delayStart n.index b
  all_goals rfl

theorem Inv.call_feed {s : State} (h : Inv s) (b : Byte) : Inv (Machine.callCur (Node.feed b) s) :=
  h.callCur (.feed b) fun hok => .inl (Node.delayStart_of_feed hok)

/-- The end of a poll frame starts the delay at `now` (R176). -/
theorem Inv.call_endOfFrame {s : State} (h : Inv s) {now : Nat} (hnow : now ≤ s.clock) :
    Inv (Machine.callCur (Node.endOfFrame now) s) :=
  h.callCur (.endOfFrame now) fun hok => by
    rcases Node.endOfFrame_ok hok with ⟨_, _, rfl⟩ | ⟨_, rfl⟩ | ⟨_, rfl⟩
    · exact .inl rfl
    · exact .inr hnow
    · exact .inl rfl

/-! The whole transaction. -/

/-- A byte accepted in or after WaitAddr, or in a header state where no node is addressed. -/
theorem Inv.accept {s : State} (h : Inv s) {q : DecState} (hq : q = .waitData ∨ q = .waitRawData ∨ s.dec.cur = none) :
    Inv (Machine.accept q s) := by
  refine h.with_dec (fun hheader => ?_) (.inr (.inl rfl))
  rcases hq with rfl | rfl | hnone
  · rcases hheader with hq | hq | hq | hq <;> cases hq
  · rcases hheader with hq | hq | hq | hq <;> cases hq
  · exact hnone

theorem Inv.rejectByte {s : State} (h : Inv s) (kind : ErrorKind) : Inv (Machine.rejectByte kind s) :=
  (h.with_dec (d := { s.dec with loc := s.dec.loc + 1 }) h.header (.inr (.inl rfl))).of_eq rfl rfl rfl le_rfl

theorem Inv.endFrame {s : State} (h : Inv s) : Inv (Machine.endFrame s) :=
  h.with_dec (fun _ => rfl) (.inl rfl)

theorem Inv.consume {s : State} (h : Inv s) (b : Byte) {now : Nat} (hnow : now ≤ s.clock) :
    Inv (Machine.consume b now s) := by
  unfold Machine.consume
  cases hq : s.dec.state with
  | waitSync1 =>
    dsimp only
    split
    · exact h.accept (.inr (.inr (h.header (.inl hq))))
    · exact h.rejectByte _
  | waitSync2 =>
    dsimp only
    split
    · exact h.accept (.inr (.inr (h.header (.inr (.inl hq)))))
    · exact h.rejectByte _
  | waitStx =>
    dsimp only
    split
    · exact h.accept (.inr (.inr (h.header (.inr (.inr (.inl hq))))))
    · exact h.rejectByte _
  | waitAddr =>
    dsimp only
    split
    · exact h.with_dec (by rintro (hq | hq | hq | hq) <;> cases hq) (.inr (.inr ⟨_, rfl⟩))
    · exact h.rejectByte _
  | waitType =>
    dsimp only
    split_ifs
    · exact h.call_init.accept (.inl rfl)
    · exact h.call_poll.accept (.inl rfl)
    · exact h.call_transmit.accept (.inl rfl)
    · exact h.rejectByte _
  | waitData =>
    dsimp only
    split_ifs
    · exact h.accept (.inr (.inl rfl))
    · exact (h.call_endOfFrame hnow).endFrame
    · exact h.rejectByte _
    · exact (h.call_feed b).accept (.inl rfl)
  | waitRawData =>
    dsimp only
    split
    · exact (h.call_feed b).accept (.inl rfl)
    · exact h.rejectByte _

/-! The node's step, construction and registration. -/

theorem Inv.stepNode {s : State} (h : Inv s) {k : Nat} {n : Node} (hk : s.nodes[k]? = some n) (now : Nat) :
    Inv (Machine.stepNode k now n s) := by
  have hreg (hne : n.state ≠ .waitInit) := h.registered hk hne
  rcases stepNode_cases k now n s with ⟨hq, _, heq⟩ | ⟨hq, hi, heq⟩ | ⟨hq, hi, heq⟩ | ⟨_, _, heq⟩ <;> rw [heq]
  · exact (h.write hk (.beginResponse hq) (.inl rfl) (.inr (hreg (by simp [hq])))).of_eq rfl rfl rfl le_rfl
  · exact (h.write hk (.sendByte hq hi) (.inl rfl) (.inl rfl)).of_eq rfl rfl rfl le_rfl
  · exact (h.write hk (.endResponse hq hi) (.inl rfl) (.inr (hreg (by simp [hq])))).of_eq rfl rfl rfl le_rfl
  · exact h.of_eq rfl rfl rfl le_rfl

/-- The registry after a node is constructed holds first registrants: the new node is one iff its address was free (R211). -/
theorem firstRegistrantWins_construct {s : State} (h : FirstRegistrantWins s) (n : Node) :
    FirstRegistrantWins (registerAt s.nodes.length n.addr (addNode n s)) := by
  rw [firstRegistrantWins_iff] at h ⊢
  intro a
  rw [registerAt_nodes, addNode_nodes, firstWith_append, ← h a]
  rcases registerAt_cases s.nodes.length n.addr (addNode n s) with ⟨hfree, heq⟩ | ⟨htaken, heq⟩ <;> rw [heq]
  · refine (reg_get_set s.reg n.addr a _).trans ?_
    by_cases ha : a = n.addr
    · subst ha
      rw [if_pos rfl, if_pos rfl, show s.reg.get n.addr = none from hfree, Option.none_or]
    · rw [if_neg ha, if_neg ha, Option.or_none]
  · by_cases ha : a = n.addr
    · subst ha
      obtain ⟨k, hk⟩ := Option.ne_none_iff_exists'.mp htaken
      show s.reg.get n.addr = _
      rw [show s.reg.get n.addr = some k from hk, Option.some_or]
    · rw [if_neg ha, Option.or_none]
      rfl

theorem registersOk_ofDesc (d : NodeDesc) : RegistersOk (Node.ofDesc d) := .of_state nofun nofun nofun

theorem Inv.construct {s : State} (h : Inv s) {d : NodeDesc} (hd : d.problem = none) (hs : s.started = false) :
    Inv (registerAt s.nodes.length (Node.ofDesc d).addr (addNode (Node.ofDesc d) s)) := by
  obtain ⟨_, hi, ho⟩ := problem_none hd
  have hframe := registerAt_frame s.nodes.length (Node.ofDesc d).addr (addNode (Node.ofDesc d) s)
  have hchange : RegChange s (registerAt s.nodes.length (Node.ofDesc d).addr (addNode (Node.ofDesc d) s)) :=
    registerAt_regChange rfl (.inl hs)
  have hall (P : Node → Prop) (hold : ∀ m ∈ s.nodes, P m) (hnew : P (Node.ofDesc d)) :
      ∀ m ∈ s.nodes ++ [Node.ofDesc d], P m :=
    List.forall_mem_append.mpr ⟨hold, List.forall_mem_singleton.mpr hnew⟩
  refine ⟨?_, firstRegistrantWins_construct h.registry _, ?_, ?_, ?_, ?_, ?_⟩
  case refine_1 => unfold HeaderUnaddressed; rw [hframe.dec]; exact h.header
  case refine_2 =>
    intro k hk
    obtain ⟨n, hn, hreg⟩ := h.cur k (hframe.dec ▸ hk)
    obtain ⟨hlt, _⟩ := List.getElem?_eq_some_iff.mp hn
    rw [hframe.nodes]
    exact ⟨n, (List.getElem?_append_left hlt).trans hn, hchange.keeps hreg⟩
  case refine_3 =>
    intro j m hm hlost
    rw [hframe.nodes, addNode_nodes] at hm
    rcases Nat.lt_or_ge j s.nodes.length with hlt | hge
    · rw [List.getElem?_append_left hlt] at hm
      exact h.inert j m hm fun hreg => hlost (hchange.keeps hreg)
    · rw [List.getElem?_append_right hge] at hm
      rw [List.mem_singleton.mp (List.mem_of_getElem? hm)]
      rfl
  case refine_4 => rw [hframe.nodes]; exact hall VectorsOk h.vectors (vectorsOk_ofDesc hi ho)
  case refine_5 => rw [hframe.nodes]; exact hall RegistersOk h.registers (registersOk_ofDesc d)
  case refine_6 =>
    unfold StartsPast
    rw [hframe.nodes, hframe.clock]
    exact hall (·.delayStart ≤ s.clock) h.starts (Nat.zero_le _)

/-- Where the registry holds first registrants, REGISTER finds the entry taken. -/
theorem Inv.register {s : State} (h : Inv s) {k : Nat} {n : Node} (hk : s.nodes[k]? = some n) :
    Inv (registerAt k n.addr s) := by
  rw [registerAt_of_taken (h.registry.registered hk)]
  exact h.of_eq rfl rfl rfl le_rfl

/-! The instructions and the step. -/

theorem Inv.withNode {s t : State} {k : Nat} {f : Node → State} (ht : withNode k s f = .next t)
    (hf : ∀ {n}, s.nodes[k]? = some n → Inv (f n)) : Inv t := by
  obtain ⟨n, hk, rfl⟩ := withNode_next ht
  exact hf hk

/-- A call of an operation, at a time that is not after the clock, keeps the invariant. -/
theorem Inv.exec_call {s t : State} (h : Inv s) {i : Instr} (hi : rowState i = none)
    (hnow : ∀ now, timeOf i = some now → now ≤ s.clock) (ht : exec i s = .next t) : Inv t := by
  cases i with
  | consume b now => cases ht; exact h.consume b (hnow now rfl)
  | init => cases ht; exact h.call_init
  | poll => cases ht; exact h.call_poll
  | transmit => cases ht; exact h.call_transmit
  | feed b => cases ht; exact h.call_feed b
  | endOfFrame now => cases ht; exact h.call_endOfFrame (hnow now rfl)
  | step k now => exact .withNode ht fun hk => h.stepNode hk now
  | inRead | outRead | appReadOut => exact .withNode ht fun _ => h.of_eq rfl rfl rfl le_rfl
  | inWrite k j v | appWriteIn k j v =>
    exact .withNode ht fun hk => h.write hk (.inWrite j v) (.inl (Node.inWrite_delayStart _ j v)) (.inl (by simp))
  | outWrite k j v =>
    exact .withNode ht fun hk => h.write hk (.outWrite j v) (.inl (Node.outWrite_delayStart _ j v)) (.inl (by simp))
  | construct d =>
    obtain ⟨hd, hs, rfl⟩ := execConstruct_next ht
    exact h.construct hd hs
  | register => exact .withNode ht h.register
  | lookup => cases ht; exact h.of_eq rfl rfl rfl le_rfl
  | _ => cases hi

/-- A decoded call is a row of no decoder state, since it is read in every one. -/
theorem rowState_of_decodeCall {c : Call} {i : Instr} (h : decodeCall c = .ok i) : rowState i = none := by
  cases hr : rowState i with
  | none => rfl
  | some p =>
    have h1 := (decodeCall_denotes .waitSync1 h).row p hr
    have h2 := (decodeCall_denotes .waitSync2 h).row p hr
    cases h1.symm.trans h2

/-- What an input decodes to means what a call does: a wire byte is its CONSUME. -/
theorem exists_call_of_decode {q : DecState} {x : Input} {i : Instr} (hd : decode q x = .ok i) :
    ∃ c, rowState c = none ∧ timeOf c = timeOf i ∧ ∀ u : State, u.dec.state = q → exec i u = exec c u := by
  cases x with
  | byte b now =>
    cases hd
    exact ⟨.consume b now, rfl, (timeOf_decodeByte q b now).symm, fun u hu => by rw [exec_consume, hu]⟩
  | call c => exact ⟨i, rowState_of_decodeCall hd, rfl, fun _ _ => rfl⟩
  | reenter | attachDecoder => cases hd

/-- Settles O49: at reset there is no node, no entry and no frame. -/
theorem invariantHoldsAtReset : Obligations.InvariantHoldsAtReset := by
  unfold Obligations.InvariantHoldsAtReset
  refine ⟨fun _ => rfl, ?_, nofun, nofun, nofun, nofun, nofun⟩
  rw [firstRegistrantWins_iff]
  intro a
  exact Vector.getElem_replicate _

/-- Settles O50: the step runs a call, untimed or at the clock it has moved on. -/
theorem invariantIsKeptByEveryStep : Obligations.InvariantIsKeptByEveryStep := by
  unfold Obligations.InvariantIsKeptByEveryStep
  intro s t h hstep
  rcases step_next_cases hstep with ⟨_, rfl⟩ | ⟨x, rest, i, _, hd, hrun⟩
  · exact h
  · obtain ⟨c, hrow, htime, hsame⟩ := exists_call_of_decode hd
    rcases hrun with ⟨hnone, hexec⟩ | ⟨now, hsome, hle, hexec⟩
    · have hcall := (hsame { s with inbox := rest } rfl).symm.trans hexec
      have hinv : Inv { s with inbox := rest } := h.of_eq rfl rfl rfl le_rfl
      refine hinv.exec_call hrow (fun now hnow => ?_) hcall
      rw [htime, hnone] at hnow
      cases hnow
    · have hcall := (hsame { s with inbox := rest, clock := now, started := true } rfl).symm.trans hexec
      have hinv : Inv { s with inbox := rest, clock := now, started := true } := h.of_eq rfl rfl rfl hle
      refine hinv.exec_call hrow (fun now' hnow => ?_) hcall
      rw [htime, hsome] at hnow
      exact (Option.some.inj hnow).ge

end Sys2Proof.Machine
end

section
/-! Byte streams (R142 to R144, R262): the byte of each framing step as CONSUME runs it, and from these the stuffed payload (O57),
the valid frame (O56), and what a header does where none is expected (O58, O59). -/
namespace Sys2Proof.Machine

/-! The whole transaction, by the row its byte selects. -/

theorem consume_of_row {s t : State} {b : Byte} {now : Nat} {q : DecState} {i : Instr} (hq : s.dec.state = q)
    (hrow : decodeByte q b now = i) (hexec : exec i s = .next t) : consume b now s = t := by
  have h := exec_consume b now s
  rw [hq, hrow, hexec] at h
  exact Host.Outcome.next.inj h

theorem consume_waitSync1_syn {s : State} (hq : s.dec.state = .waitSync1) (now : Nat) :
    consume SYN now s = accept .waitSync2 s := consume_of_row hq (now := now) rfl rfl

theorem consume_waitSync2_syn {s : State} (hq : s.dec.state = .waitSync2) (now : Nat) :
    consume SYN now s = accept .waitStx s := consume_of_row hq (now := now) rfl rfl

theorem consume_waitStx_stx {s : State} (hq : s.dec.state = .waitStx) (now : Nat) :
    consume STX now s = accept .waitAddr s := consume_of_row hq (now := now) rfl rfl

theorem consume_waitAddr_byteOfAddr {s : State} (hq : s.dec.state = .waitAddr) (a : Addr) (now : Nat) :
    consume (byteOfAddr a) now s = selectNode (s.reg.get a) s :=
  consume_of_row hq (decodeByte_waitAddr_byteOfAddr a now) rfl

theorem consume_waitData_esc {s : State} (hq : s.dec.state = .waitData) (now : Nat) :
    consume ESC now s = accept .waitRawData s := consume_of_row hq (now := now) rfl rfl

theorem consume_waitData_plain {s : State} {b : Byte} (hq : s.dec.state = .waitData) (hb : ¬ isCtrl b = true)
    (now : Nat) : consume b now s = accept .waitData (callCur (Node.feed b) s) :=
  consume_of_row hq (decodeByte_waitData_of_not_isCtrl hb now) rfl

theorem consume_waitRawData_ctrl {s : State} {b : Byte} (hq : s.dec.state = .waitRawData) (hb : isCtrl b = true)
    (now : Nat) : consume b now s = accept .waitData (callCur (Node.feed b) s) :=
  consume_of_row hq (decodeByte_waitRawData_of_isCtrl hb now) rfl

/-! A header byte out of place. -/

theorem consume_waitStx_wrong {s : State} {b : Byte} (hq : s.dec.state = .waitStx) (hb : b ≠ STX) (now : Nat) :
    consume b now s = rejectByte .wrongChar s := consume_of_row hq (decodeByte_waitStx_of_ne hb now) rfl

theorem consume_waitAddr_wrong {s : State} {b : Byte} (hq : s.dec.state = .waitAddr) (hb : ¬ isAddrByte b = true)
    (now : Nat) : consume b now s = rejectByte .wrongAddress s :=
  consume_of_row hq (decodeByte_waitAddr_of_not_isAddrByte hb now) rfl

theorem consume_waitData_framing {s : State} {b : Byte} (hq : s.dec.state = .waitData) (hb : b = SYN ∨ b = STX)
    (now : Nat) : consume b now s = rejectByte .wrongChar s :=
  consume_of_row hq (decodeByte_waitData_of_framing hb now) rfl

/-! Node calls do not read the decoder but for the current node. -/

theorem callCur_with_dec {s : State} {d : Dec} (hd : d.cur = s.dec.cur) (f : Node → Except ErrorKind Node) :
    callCur f { s with dec := d } = { callCur f s with dec := d } := by
  cases hc : s.dec.cur with
  | none => rw [callCur_none hc, callCur_none (s := { s with dec := d }) (hd.trans hc)]
  | some k =>
    cases hk : s.nodes[k]? with
    | none => simp only [callCur, callNode, hd, hc, hk]
    | some n =>
      have hcur : IsCur s k n := ⟨hc, hk⟩
      have hcur' : IsCur { s with dec := d } k n := ⟨hd.trans hc, hk⟩
      cases hf : f n with
      | ok n' => rw [callCur_of_ok hcur hf, callCur_of_ok hcur' hf]
      | error e => rw [callCur_of_error hcur hf, callCur_of_error hcur' hf]

theorem callCur_accept (f : Node → Except ErrorKind Node) (q : DecState) (s : State) :
    callCur f (accept q s) = accept q (callCur f s) := by
  rw [accept_callCur]
  exact callCur_with_dec (d := { state := q, loc := s.dec.loc + 1, cur := s.dec.cur }) rfl f

theorem feedAll_cons (b : Byte) (p : List Byte) (s : State) :
    feedAll (b :: p) s = feedAll p (callCur (Node.feed b) s) := rfl

theorem feedAll_dec (p : List Byte) (s : State) : (feedAll p s).dec = s.dec := by
  induction p generalizing s with
  | nil => rfl
  | cons b p ih => rw [feedAll_cons, ih, callCur_dec]

theorem feedAll_with_dec {s : State} {d : Dec} (hd : d.cur = s.dec.cur) (p : List Byte) :
    feedAll p { s with dec := d } = { feedAll p s with dec := d } := by
  induction p generalizing s with
  | nil => rfl
  | cons b p ih =>
    rw [feedAll_cons, callCur_with_dec hd, ih (by rw [callCur_dec, hd]), feedAll_cons]

/-! The stuffed payload. -/

theorem consumes_append (bs cs : List (Byte × Nat)) : consumes (bs ++ cs) = consumes bs ++ consumes cs := List.map_append

theorem execAll_consumes_one (b : Byte) (now : Nat) (s : State) :
    execAll (consumes [(b, now)]) s = .next (consume b now s) := rfl

/-- One stuffed payload byte delivers the byte, whether it was escaped or not (R99). -/
theorem execAll_consumes_stuff {s : State} {b : Byte} {bs : List (Byte × Nat)} (hq : s.dec.state = .waitData)
    (hbs : bs.map Prod.fst = stuff b) : execAll (consumes bs) s = .next { callCur (Node.feed b) s with
      dec := { state := .waitData, loc := s.dec.loc + bs.length, cur := s.dec.cur } } := by
  by_cases hb : isCtrl b = true
  · rw [stuff, if_pos hb, List.map_eq_cons_iff] at hbs
    obtain ⟨⟨_, t1⟩, bs, rfl, rfl, hbs⟩ := hbs
    obtain ⟨⟨_, t2⟩, rfl, rfl⟩ := List.map_eq_singleton_iff.mp hbs
    rw [execAll_consumes]
    simp only [List.foldl_cons, List.foldl_nil]
    rw [consume_waitData_esc hq, consume_waitRawData_ctrl rfl hb]
    rw [callCur_accept]
    simp only [accept, callCur_dec]
    rfl
  · rw [stuff, if_neg hb] at hbs
    obtain ⟨⟨_, t1⟩, rfl, rfl⟩ := List.map_eq_singleton_iff.mp hbs
    rw [execAll_consumes_one, consume_waitData_plain hq hb, accept_callCur]
    rfl

/-- A stuffed payload in WaitData is the run of feeds, counted byte by byte. -/
theorem execAll_consumes_stuffAll {p : List Byte} {s : State} {bs : List (Byte × Nat)} (hq : s.dec.state = .waitData)
    (hbs : bs.map Prod.fst = stuffAll p) : execAll (consumes bs) s = .next { feedAll p s with
      dec := { state := .waitData, loc := s.dec.loc + bs.length, cur := s.dec.cur } } := by
  induction p generalizing s bs with
  | nil =>
    obtain rfl := List.map_eq_nil_iff.mp hbs
    rw [← hq]
    rfl
  | cons b p ih =>
    obtain ⟨bs, cs, rfl, hb, hp⟩ := List.map_eq_append_iff.mp hbs
    rw [consumes_append, execAll_append (execAll_consumes_stuff hq hb), ih rfl hp,
      feedAll_with_dec (by rw [callCur_dec]), List.length_append, ← Nat.add_assoc]
    rfl

/-- Settles O57. -/
theorem stuffedPayloadIsDelivered : Obligations.StuffedPayloadIsDelivered := by
  unfold Obligations.StuffedPayloadIsDelivered
  intro s p bs hq hbs
  exact execAll_consumes_stuffAll hq hbs

/-! The valid frame. -/

/-- The four header bytes, in WaitSync1, select the node registered at the address. -/
theorem execAll_consumes_header {s : State} {a : Addr} {bs : List (Byte × Nat)} (hq : s.dec.state = .waitSync1)
    (hbs : bs.map Prod.fst = [SYN, SYN, STX, byteOfAddr a]) : execAll (consumes bs) s =
      .next { selectNode (s.reg.get a) s with dec := { state := .waitType, loc := s.dec.loc + 4, cur := s.reg.get a } } := by
  simp only [List.map_eq_cons_iff, List.map_eq_nil_iff] at hbs
  obtain ⟨⟨_, t1⟩, _, rfl, rfl, ⟨_, t2⟩, _, rfl, rfl, ⟨_, t3⟩, _, rfl, rfl, ⟨_, t4⟩, _, rfl, rfl, rfl⟩ := hbs
  rw [execAll_consumes]
  simp only [List.foldl_cons, List.foldl_nil]
  rw [consume_waitSync1_syn hq, consume_waitSync2_syn rfl, consume_waitStx_stx rfl, consume_waitAddr_byteOfAddr rfl]
  rfl

/-- The end of a frame: the node's endOfFrame, and the decoder cleared. -/
def endCall (now : Nat) (s : State) : State := endFrame (callCur (Node.endOfFrame now) s)

/-- Of the decoder the end of a frame reads the current node alone, and clears the rest. -/
theorem endCall_with_dec {s : State} {d : Dec} (hd : d.cur = s.dec.cur) (now : Nat) :
    endCall now { s with dec := d } = endCall now s := by
  rw [endCall, callCur_with_dec hd]
  rfl

theorem endCall_feedAll_with_dec {s : State} {d : Dec} (hd : d.cur = s.dec.cur) (p : List Byte) (now : Nat) :
    endCall now (feedAll p { s with dec := d }) = endCall now (feedAll p s) := by
  rw [feedAll_with_dec hd, endCall_with_dec (by rw [feedAll_dec, hd])]

/-- From WaitData the stuffed payload and the end byte feed the payload and end the frame. -/
theorem execAll_consumes_rest {s : State} {p : List Byte} {bs : List (Byte × Nat)} (hq : s.dec.state = .waitData)
    (hbs : bs.map Prod.fst = stuffAll p) (now : Nat) :
    execAll (consumes (bs ++ [(ETX, now)])) s = .next (endCall now (feedAll p s)) := by
  rw [consumes_append, execAll_append (execAll_consumes_stuffAll hq hbs), execAll_consumes_one, consume_waitData_etx rfl]
  exact congrArg _ (endCall_with_dec (by rw [feedAll_dec]) now)

/-- A frame whose type byte runs the control call `f` makes its calls on the node registered at the address. -/
theorem execAll_consumes_frame {s : State} {a : Addr} {p : List Byte} {ty : Byte} {f : Node → Except ErrorKind Node}
    {bs : List (Byte × Nat)} (hq : s.dec.state = .waitSync1)
    (hty : ∀ (u : State) (t : Nat), u.dec.state = .waitType → consume ty t u = accept .waitData (callCur f u))
    (hbs : bs.map Prod.fst = [SYN, SYN, STX, byteOfAddr a, ty] ++ stuffAll p) (now : Nat) :
    execAll (consumes (bs ++ [(ETX, now)])) s = .next (endCall now
      (feedAll p (callCur f (selectNode (s.reg.get a) s)))) := by
  have hlist : bs.map Prod.fst = [SYN, SYN, STX, byteOfAddr a] ++ ([ty] ++ stuffAll p) := hbs
  obtain ⟨header, _, rfl, hheader, hrest⟩ := List.map_eq_append_iff.mp hlist
  obtain ⟨_, payload, rfl, htype, hpayload⟩ := List.map_eq_append_iff.mp hrest
  obtain ⟨⟨_, t⟩, rfl, rfl⟩ := List.map_eq_singleton_iff.mp htype
  have hcall := hty { selectNode (s.reg.get a) s with
    dec := { state := .waitType, loc := s.dec.loc + 4, cur := s.reg.get a } } t rfl
  rw [callCur_with_dec (s := selectNode (s.reg.get a) s)
    (d := { state := .waitType, loc := s.dec.loc + 4, cur := s.reg.get a }) rfl] at hcall
  rw [List.append_assoc, consumes_append, execAll_append (execAll_consumes_header hq hheader), List.append_assoc,
    consumes_append, execAll_append (execAll_consumes_one _ t _), hcall, execAll_consumes_rest rfl hpayload]
  exact congrArg _ (endCall_feedAll_with_dec (s := callCur f (selectNode (s.reg.get a) s))
    (d := { state := .waitData, loc := s.dec.loc + 4 + 1, cur := s.reg.get a }) (by rw [callCur_dec]; rfl) p now)

/-- Settles O56: the three type bytes. -/
theorem validFrameMakesItsCalls : Obligations.ValidFrameMakesItsCalls := by
  unfold Obligations.ValidFrameMakesItsCalls
  intro s a p bs now hq
  refine ⟨fun hbs => ?_, fun hbs => ?_, fun hbs => ?_⟩
  · exact execAll_consumes_frame hq (fun u now hu => consume_of_row hu (now := now) rfl rfl) hbs now
  · exact execAll_consumes_frame hq (fun u now hu => consume_of_row hu (now := now) rfl rfl) hbs now
  · exact execAll_consumes_frame hq (fun u now hu => consume_of_row hu (now := now) rfl rfl) hbs now

/-! A header where none is expected. -/

/-- Settles O58: from each state the header bytes that come too late are reported, the rest are accepted. -/
theorem headerStatesResynchronise : Obligations.HeaderStatesResynchronise := by
  unfold Obligations.HeaderStatesResynchronise
  intro s a t1 t2 t3 t4 hq
  simp only [List.mem_cons, List.not_mem_nil, or_false] at hq
  have hsyn : ¬ isAddrByte SYN = true := by decide
  have hstx : ¬ isAddrByte STX = true := by decide
  have hstart : SYN ≠ STX := by decide
  rw [execAll_consumes]
  simp only [List.foldl_cons, List.foldl_nil]
  rcases hq with hq | hq | hq | hq
  · have hrun : consume (byteOfAddr a) t4 (consume STX t3 (consume SYN t2 (consume SYN t1 s))) =
        selectNode (s.reg.get a) (accept .waitAddr (accept .waitStx (accept .waitSync2 s))) := by
      rw [consume_waitSync1_syn hq, consume_waitSync2_syn rfl, consume_waitStx_stx rfl, consume_waitAddr_byteOfAddr rfl]
      rfl
    exact ⟨_, [], congrArg _ hrun, rfl, rfl, (List.append_nil _).symm, Nat.zero_le _⟩
  · have hrun : consume (byteOfAddr a) t4 (consume STX t3 (consume SYN t2 (consume SYN t1 s))) =
        selectNode (s.reg.get a) (accept .waitAddr (rejectByte .wrongChar (accept .waitStx s))) := by
      rw [consume_waitSync2_syn hq, consume_waitStx_wrong rfl hstart, consume_waitStx_stx rfl,
        consume_waitAddr_byteOfAddr rfl]
      rfl
    exact ⟨_, [_], congrArg _ hrun, rfl, rfl, rfl, by simp⟩
  · have hrun : consume (byteOfAddr a) t4 (consume STX t3 (consume SYN t2 (consume SYN t1 s))) =
        selectNode (s.reg.get a) (accept .waitAddr (rejectByte .wrongChar (rejectByte .wrongChar s))) := by
      rw [consume_waitStx_wrong hq hstart, consume_waitStx_wrong (s := rejectByte _ s) hq hstart,
        consume_waitStx_stx (s := rejectByte _ (rejectByte _ s)) hq, consume_waitAddr_byteOfAddr rfl]
      rfl
    exact ⟨_, [_, _], congrArg _ hrun, rfl, rfl, List.append_assoc s.trace _ _, by simp⟩
  · have hrun : consume (byteOfAddr a) t4 (consume STX t3 (consume SYN t2 (consume SYN t1 s))) =
        selectNode (s.reg.get a) (rejectByte .wrongAddress (rejectByte .wrongAddress (rejectByte .wrongAddress s))) := by
      rw [consume_waitAddr_wrong hq hsyn, consume_waitAddr_wrong (s := rejectByte _ s) hq hsyn,
        consume_waitAddr_wrong (s := rejectByte _ (rejectByte _ s)) hq hstx,
        consume_waitAddr_byteOfAddr (s := rejectByte _ (rejectByte _ (rejectByte _ s))) hq]
      rfl
    exact ⟨_, [.decErr .wrongAddress (s.dec.loc + 1), .decErr .wrongAddress (s.dec.loc + 2),
      .decErr .wrongAddress (s.dec.loc + 3)], congrArg _ hrun, rfl, rfl, by simp, le_rfl⟩

/-- Settles O59: three framing bytes are reported, and an address byte is no control byte. -/
theorem headerInsideAPayloadIsNotRecognised : Obligations.HeaderInsideAPayloadIsNotRecognised := by
  unfold Obligations.HeaderInsideAPayloadIsNotRecognised
  intro s a t1 t2 t3 t4 hq
  refine ⟨_, rfl, ?_⟩
  have hreports : rejectByte .wrongChar (rejectByte .wrongChar (rejectByte .wrongChar s)) = { s with
      dec := { state := .waitData, loc := s.dec.loc + 3, cur := s.dec.cur }
      trace := s.trace ++ [.decErr .wrongChar (s.dec.loc + 1), .decErr .wrongChar (s.dec.loc + 2),
        .decErr .wrongChar (s.dec.loc + 3)] } := by
    rw [rejectByte_eq hq, rejectByte_eq rfl, rejectByte_eq rfl]
    simp only [List.append_assoc]
    rfl
  rw [execAll_consumes]
  simp only [List.foldl_cons, List.foldl_nil]
  rw [consume_waitData_framing hq (.inl rfl), consume_waitData_framing (s := rejectByte _ s) hq (.inl rfl),
    consume_waitData_framing (s := rejectByte _ (rejectByte _ s)) hq (.inr rfl), hreports,
    consume_waitData_plain rfl (not_isCtrl_byteOfAddr a), accept_callCur]

end Sys2Proof.Machine
end
